-- ==== Sys2Proof/Config.lean ====
section
/-! DEFINITION. The implementation parameters of `00_scope.md` rule R6 that a command's test reads.
The other parameters of that rule are widths and stand in Word.lean; `LANES` is 1 and `UNROLL` does not exist in ANC.
There is no free value: the spec leaves nothing non-deterministic (rule R14, point 6). -/

namespace Sys2Proof

/-- `WMAX_SOLVER`: the largest modulus bit-width the solver takes (rule R6). -/
def Config.wmaxSolver : Nat := 127

/-- `WMAX_CODEC`: the largest `wout` of the codec and the arithmetic unit (rule R6). -/
def Config.wmaxCodec : Nat := 64

end Sys2Proof
end

