-- ==== Sys2Proof/Word.lean ====
section
/-! DEFINITION. The word types of ANC: the widths of `00_scope.md` rule R6 and `10_state.md` rule R20.
Bit 0 of a word is its least significant bit (rule R7); every value is unsigned. -/

namespace Sys2Proof

/-- A command word `cmd`: 32 bits, parameter `CW` (rules R6, R66). -/
abbrev CmdWord := BitVec 32

/-- A value on `din` or `dout`: 128 bits, parameter `DW` (rules R6, R52). -/
abbrev Data := BitVec 128

/-- A 64-bit register: `A`, `AINV`, `OPD`, `IDX`, `ERROFF` (rules R6, R20). -/
abbrev Word64 := BitVec 64

/-- A 32-bit register: `ITER`, `ERRITER` (rules R6, R20). -/
abbrev Word32 := BitVec 32

/-- An 8-bit field: `CFGW.WIN`, `CFGW.WOUT`, `ERRINFO.TAG`, the opcode (rules R20, R67). -/
abbrev Byte := BitVec 8

/-- A 4-bit code: `resp`, `ERRINFO.KIND`, `ERRINFO.CAUSE` (rules R6, R20). -/
abbrev Nibble := BitVec 4

end Sys2Proof
end

