-- ==== Sys2Proof/Syntax.lean ====
section
/-! DEFINITION. The fourteen commands of `30_encoding.md` rule R73, with the fields of their formats (rules R68 to R71).
The data operand `din` is not part of the command word (rule R65); it stands in the machine's state.
Fields are natural numbers, as in rule R72; WellFormed.lean bounds them by their widths (log entry 11). -/

namespace Sys2Proof

/-- One command, as its word gives it. -/
inductive Instr
  /-- `NOP`, `43_call_control.md` rule R136. -/
  | nop
  /-- `INV w`, `40_solver.md` rule R87: `w` is the modulus bit-width. -/
  | inv (w : Nat)
  /-- `CFG win, wout`, `41_codec.md` rule R96. -/
  | cfg (win wout : Nat)
  /-- `SETOP`, `42_arithmetic.md` rule R116. -/
  | setop
  /-- `START`, `43_call_control.md` rule R139. -/
  | start
  /-- `NEXTITER`, `43_call_control.md` rule R140. -/
  | nextiter
  /-- `RDREG r`, `43_call_control.md` rule R141: `r` is the register index. -/
  | rdreg (r : Nat)
  /-- `ENC`, `41_codec.md` rule R100. -/
  | enc
  /-- `CHK`, `41_codec.md` rule R103. -/
  | chk
  /-- `DEC`, `41_codec.md` rule R104. -/
  | dec
  /-- `ADD`, `42_arithmetic.md` rule R119. -/
  | add
  /-- `SUB`, `42_arithmetic.md` rule R120. -/
  | sub
  /-- `MUL`, `42_arithmetic.md` rule R121. -/
  | mul
  /-- `DIV`, `42_arithmetic.md` rule R122. -/
  | div
  deriving DecidableEq, Repr

/-- The seven element commands of `00_scope.md` rule R13: each consumes one buffer element. -/
inductive ElementOp
  | enc | chk | dec | add | sub | mul | div
  deriving DecidableEq, Repr

/-- The eleven register names of `10_state.md` rule R21, which may stand for an index in `RDREG` (`30_encoding.md` rule R77). -/
inductive RegName
  | status | cfgw | a | ainv | dmax | opd | idx | iter | errinfo | erroff | erriter
  deriving DecidableEq, Repr

end Sys2Proof
end

