-- ==== Sys2Proof/WellFormed.lean ====
section
/-! DEFINITION. Which commands a 32-bit word can hold: every field fits its width (`30_encoding.md` rules R69 to R71).
Every value of a field that fits its width decodes, so there is no further check here; values a command does not take
are rejected by the command itself (rules R69, R70). -/

namespace Sys2Proof

/-- The fields of `i` fit the widths of its format: `w`, `win`, `wout` 8 bits, `r` 4 bits. -/
def Instr.wellFormed : Instr → Bool
  | .nop | .setop | .start | .nextiter | .enc | .chk | .dec | .add | .sub | .mul | .div => true
  | .inv w => w < 2 ^ 8
  | .cfg win wout => win < 2 ^ 8 && wout < 2 ^ 8
  | .rdreg r => r < 2 ^ 4

/-- `i` is a command that a word can hold. -/
abbrev WellFormed (i : Instr) : Prop := i.wellFormed = true

end Sys2Proof
end

