-- ==== Sys2Proof/Decode.lean ====
section
/-! DEFINITION. Decoding a command word, the encoder, and the opcode table (`30_encoding.md` sections 2 to 5).
Decoding is total (rule R74): a word is one command, or it is illegal and the reason is named. -/

namespace Sys2Proof

/-- Why a word is illegal (`30_encoding.md` rule R74). Both are answered `ILLEGAL` by the machine. -/
inductive Reject
  /-- The opcode is none of the fourteen. -/
  | reservedOpcode (op : Nat)
  /-- The opcode is one of the fourteen and a bit that its format requires to be zero is 1. -/
  | mustBeZero (op : Nat)
  deriving DecidableEq, Repr

/-- `v[hi:lo]`, the natural number made of bits `hi` down to `lo` of `v` (`00_scope.md` rule R7). -/
def bits (v hi lo : Nat) : Nat := v / 2 ^ lo % 2 ^ (hi - lo + 1)

/-- Format Z (rule R68): `cmd[31:8]` is zero. -/
def formatZ (c : Nat) (i : Instr) : Except Reject Instr :=
  if bits c 31 8 = 0 then .ok i else .error (.mustBeZero (bits c 7 0))

/-- Format W (rule R69): `cmd[31:16]` is zero and `cmd[15:8]` is `w`. -/
def formatW (c : Nat) (i : Nat → Instr) : Except Reject Instr :=
  if bits c 31 16 = 0 then .ok (i (bits c 15 8)) else .error (.mustBeZero (bits c 7 0))

/-- Format C (rule R70): `cmd[31:24]` is zero, `cmd[23:16]` is `win` and `cmd[15:8]` is `wout`. -/
def formatC (c : Nat) (i : Nat → Nat → Instr) : Except Reject Instr :=
  if bits c 31 24 = 0 then .ok (i (bits c 23 16) (bits c 15 8)) else .error (.mustBeZero (bits c 7 0))

/-- Format R (rule R71): `cmd[31:12]` is zero and `cmd[11:8]` is `r`. -/
def formatR (c : Nat) (i : Nat → Instr) : Except Reject Instr :=
  if bits c 31 12 = 0 then .ok (i (bits c 11 8)) else .error (.mustBeZero (bits c 7 0))

/-- The opcode map of rule R73, on the number the word holds. -/
def decodeNat (c : Nat) : Except Reject Instr :=
  match bits c 7 0 with
  | 0x00 => formatZ c .nop
  | 0x01 => formatW c .inv
  | 0x02 => formatC c .cfg
  | 0x03 => formatZ c .setop
  | 0x04 => formatZ c .start
  | 0x05 => formatZ c .nextiter
  | 0x06 => formatR c .rdreg
  | 0x10 => formatZ c .enc
  | 0x11 => formatZ c .chk
  | 0x12 => formatZ c .dec
  | 0x18 => formatZ c .add
  | 0x19 => formatZ c .sub
  | 0x1A => formatZ c .mul
  | 0x1B => formatZ c .div
  | op => .error (.reservedOpcode op)

/-- What a 32-bit word decodes to (rule R74). -/
def decode (c : CmdWord) : Except Reject Instr := decodeNat c.toNat

/-- The opcode `cmd[7:0]` of each command (rule R73). -/
def opcode : Instr → Byte
  | .nop => 0x00
  | .inv _ => 0x01
  | .cfg _ _ => 0x02
  | .setop => 0x03
  | .start => 0x04
  | .nextiter => 0x05
  | .rdreg _ => 0x06
  | .enc => 0x10
  | .chk => 0x11
  | .dec => 0x12
  | .add => 0x18
  | .sub => 0x19
  | .mul => 0x1A
  | .div => 0x1B

/-- The fields of a command in their places (rules R68 to R71), as one number; the opcode is added by `encode`. -/
def fieldBits : Instr → Nat
  | .inv w => w * 2 ^ 8
  | .cfg win wout => win * 2 ^ 16 + wout * 2 ^ 8
  | .rdreg r => r * 2 ^ 8
  | .nop | .setop | .start | .nextiter | .enc | .chk | .dec | .add | .sub | .mul | .div => 0

/-- The word of a well-formed command (rules R67 to R73). -/
def encode (i : Instr) : CmdWord := BitVec.ofNat 32 (fieldBits i + (opcode i).toNat)

/-- One row of the opcode map of rule R73. -/
structure OpcodeRow where
  mnemonic : String
  matchBits : CmdWord
  maskBits : CmdWord
  deriving DecidableEq, Repr

/-- The row of rule R73 that a command belongs to. -/
def opcodeRow : Instr → OpcodeRow
  | .nop => ⟨"NOP", 0x00000000, 0xFFFFFFFF⟩
  | .inv _ => ⟨"INV", 0x00000001, 0xFFFF00FF⟩
  | .cfg _ _ => ⟨"CFG", 0x00000002, 0xFF0000FF⟩
  | .setop => ⟨"SETOP", 0x00000003, 0xFFFFFFFF⟩
  | .start => ⟨"START", 0x00000004, 0xFFFFFFFF⟩
  | .nextiter => ⟨"NEXTITER", 0x00000005, 0xFFFFFFFF⟩
  | .rdreg _ => ⟨"RDREG", 0x00000006, 0xFFFFF0FF⟩
  | .enc => ⟨"ENC", 0x00000010, 0xFFFFFFFF⟩
  | .chk => ⟨"CHK", 0x00000011, 0xFFFFFFFF⟩
  | .dec => ⟨"DEC", 0x00000012, 0xFFFFFFFF⟩
  | .add => ⟨"ADD", 0x00000018, 0xFFFFFFFF⟩
  | .sub => ⟨"SUB", 0x00000019, 0xFFFFFFFF⟩
  | .mul => ⟨"MUL", 0x0000001A, 0xFFFFFFFF⟩
  | .div => ⟨"DIV", 0x0000001B, 0xFFFFFFFF⟩

/-- The fourteen rows of rule R73, in its order. A word selects a row when `c AND mask = match`. -/
def opcodeTable : List OpcodeRow :=
  [.nop, .inv 0, .cfg 0 0, .setop, .start, .nextiter, .rdreg 0].map opcodeRow ++
    [.enc, .chk, .dec, .add, .sub, .mul, .div].map opcodeRow

/-- The command of an element command (`00_scope.md` rule R13). -/
def ElementOp.instr : ElementOp → Instr
  | .enc => .enc
  | .chk => .chk
  | .dec => .dec
  | .add => .add
  | .sub => .sub
  | .mul => .mul
  | .div => .div

/-- The index of a named register (`10_state.md` rule R21). -/
def RegName.index : RegName → Nat
  | .status => 0
  | .cfgw => 1
  | .a => 2
  | .ainv => 3
  | .dmax => 4
  | .opd => 5
  | .idx => 6
  | .iter => 7
  | .errinfo => 8
  | .erroff => 9
  | .erriter => 10

/-- The command the decoder reads from the table's bits `w` of an instruction whose row has `nbits` bits; the bits above
`nbits` are zero. A command is one 32-bit number with bit 0 least significant (rule R66), so there are no bytes to lay out. -/
def decodeTableWord (nbits w : Nat) : Option Instr :=
  match decode (BitVec.ofNat 32 (w % 2 ^ nbits)) with
  | .ok i => some i
  | .error _ => none

end Sys2Proof
end

