-- ==== Sys2Proof/Machine/State.lean ====
section
/-! DEFINITION. The state of ANC (`10_state.md` rule R20), its reset value (rule R41), and the channels of
`30_encoding.md` rule R65 as plain data. ANC has no memory (`20_memory.md` rule R50), so the state holds none. -/

namespace Sys2Proof.Machine

/-- The kinds `ERRINFO.KIND` can hold (`10_state.md` rule R31); no other value is ever written. -/
inductive ErrKind
  | none | corruption | config
  deriving DecidableEq, Repr

/-- The causes of `60_exceptions.md` rule R156; the reserved codes 11 to 15 are never produced. -/
inductive Cause
  | none | range | divisibility | resultRange | evenA | widthCombination | unsupportedWidth
  | notConfigured | inputWidth | operandRange | divZero
  deriving DecidableEq, Repr

/-- The response codes of `30_encoding.md` rule R75; the reserved values 3 and 6 to 15 are never produced. -/
inductive RespCode
  | ok | corruption | config | aborted | illegal
  deriving DecidableEq, Repr

/-- One response: the code on `resp` and the value on `dout` (`30_encoding.md` rules R65, R76). -/
structure Response where
  resp : RespCode
  dout : Data
  deriving DecidableEq, Repr

/-- One thing the host does to ANC: issue a command with its data operand, or assert `rst` (`30_encoding.md` rule R65). -/
inductive HostInput
  | command (cmd : CmdWord) (din : Data)
  | rst
  deriving DecidableEq, Repr

/-- The state. The first fourteen fields are the architectural state, exactly the tuple of `10_state.md` rule R20.
The last three are the model's own and carry the run of `00_scope.md` rule R15 (log entry 1). -/
structure State where
  /-- `STATUS.CFGOK` (rule R22). -/
  cfgok : Bool
  /-- `STATUS.ERR`, the error latch (rule R22). -/
  err : Bool
  /-- `CFGW.WIN` (rule R23). -/
  win : Byte
  /-- `CFGW.WOUT` (rule R23). -/
  wout : Byte
  /-- `A`, the encoding constant (rule R24). -/
  a : Word64
  /-- `AINV`, its inverse modulo `2^WOUT` (rule R25). -/
  ainv : Word64
  /-- `OPD`, the plain operand (rule R28). -/
  opd : Word64
  /-- `IDX`, the element offset (rule R29). -/
  idx : Word64
  /-- `ITER`, the iteration index (rule R30). -/
  iter : Word32
  /-- `ERRINFO.KIND` (rule R31). -/
  errKind : ErrKind
  /-- `ERRINFO.CAUSE` (rule R31). -/
  errCause : Cause
  /-- `ERRINFO.TAG` (rule R31). -/
  errTag : Byte
  /-- `ERROFF` (rule R32). -/
  erroff : Word64
  /-- `ERRITER` (rule R33). -/
  erriter : Word32
  /-- The host's inputs not yet taken, the next one first. Not a register of ANC. -/
  pending : List HostInput
  /-- The value on the `din` port with the command being executed. Not a register of ANC. -/
  din : Data
  /-- The responses produced so far, oldest first. Not a register of ANC. -/
  responses : List Response
  deriving DecidableEq, Repr

/-- Reasons to stop with a fault: there is none, because every command in every state has an outcome and a response
(`00_scope.md` rule R15), so nobody raises one (log entry 15; safe). -/
inductive Fault
  deriving DecidableEq, Repr

/-- Reasons to refuse an instruction. -/
inductive Refusal
  /-- Raised only by an arm of `exec` whose instruction has no meaning yet; no arm of this model raises it. Safe. -/
  | notModelled (mnemonic : String)
  deriving DecidableEq, Repr

/-- The outcome of a command or a step. -/
abbrev Result := Host.Outcome State Fault Refusal

/-- The state right after reset: every bit of the architectural state is 0 (`10_state.md` rule R41), nothing has been
issued and nothing answered (log entry 1). -/
def State.reset : State where
  cfgok := false
  err := false
  win := 0
  wout := 0
  a := 0
  ainv := 0
  opd := 0
  idx := 0
  iter := 0
  errKind := .none
  errCause := .none
  errTag := 0
  erroff := 0
  erriter := 0
  pending := []
  din := 0
  responses := []

end Sys2Proof.Machine
end

