-- ==== Sys2Proof/Machine/Flags.lean ====
section
/-! DEFINITION. The codes of kinds, causes and responses, and the status, width and error words as software reads them.
ANC has no arithmetic flags (`10_state.md` rule R38); its only status bits are `CFGOK` and `ERR`. -/

namespace Sys2Proof.Machine

/-- The value of `resp` (`30_encoding.md` rule R75). -/
def RespCode.code : RespCode → Nibble
  | .ok => 0
  | .corruption => 1
  | .config => 2
  | .aborted => 4
  | .illegal => 5

/-- The response code of a kind: the values agree (`10_state.md` rule R31). -/
def ErrKind.resp : ErrKind → RespCode
  | .none => .ok
  | .corruption => .corruption
  | .config => .config

/-- The value of `ERRINFO.KIND` (`10_state.md` rule R31). -/
def ErrKind.code : ErrKind → Nibble
  | .none => 0
  | .corruption => 1
  | .config => 2

/-- The cause code of `60_exceptions.md` rule R156. -/
def Cause.code : Cause → Nibble
  | .none => 0
  | .range => 1
  | .divisibility => 2
  | .resultRange => 3
  | .evenA => 4
  | .widthCombination => 5
  | .unsupportedWidth => 6
  | .notConfigured => 7
  | .inputWidth => 8
  | .operandRange => 9
  | .divZero => 10

/-- The kind of a cause, the Kind column of `60_exceptions.md` rule R156. -/
def Cause.kind : Cause → ErrKind
  | .none => .none
  | .range | .divisibility | .resultRange => .corruption
  | .evenA | .widthCombination | .unsupportedWidth | .notConfigured | .inputWidth | .operandRange | .divZero => .config

/-- The register `STATUS`: `CFGOK` is bit 0 and `ERR` is bit 1 (`10_state.md` rules R21, R22). -/
def statusWord (s : State) : BitVec 2 := BitVec.ofBool s.err ++ BitVec.ofBool s.cfgok

/-- The register `CFGW`: `WIN` is bits 7 to 0 and `WOUT` is bits 15 to 8 (`10_state.md` rule R21). -/
def cfgwWord (s : State) : BitVec 16 := s.wout ++ s.win

/-- The register `ERRINFO`: `KIND` is bits 3 to 0, `CAUSE` bits 7 to 4, `TAG` bits 15 to 8 (`10_state.md` rule R21). -/
def errinfoWord (s : State) : BitVec 16 := s.errTag ++ (s.errCause.code ++ s.errKind.code)

/-- The level output `err_o`, equal to `STATUS.ERR` at all times (`60_exceptions.md` rule R167). -/
def errO (s : State) : Bool := s.err

end Sys2Proof.Machine
end

