-- ==== Sys2Proof/Machine/Operands.lean ====
section
/-! DEFINITION. What a command reads: the data operand, the codec's parameters, the validity test, the operand tests and
the registers `RDREG` returns. Arithmetic is on natural numbers (`00_scope.md` rule R8). -/

namespace Sys2Proof.Machine

/-- The data operand as one natural number (`30_encoding.md` rule R72). -/
def dataOperand (s : State) : Nat := s.din.toNat

/-- `M`, that is `2^WOUT` (`00_scope.md` rule R9). -/
def modulus (s : State) : Nat := 2 ^ s.wout.toNat

/-- `DMAX`, that is `2^WIN − 1` (`10_state.md` rule R27). -/
def dMax (s : State) : Nat := 2 ^ s.win.toNat - 1

/-- `dec(v) = (v × AINV) mod M` (`41_codec.md` rule R95). -/
def decodedValue (s : State) (v : Nat) : Nat := v * s.ainv.toNat % modulus s

/-- The exact product `x × A` of the encoder (`41_codec.md` rules R100, R102). -/
def encodedValue (s : State) (x : Nat) : Nat := x * s.a.toNat

/-- The raw-value width check of `ENC` (`41_codec.md` rule R99). -/
def rawWidthFault (s : State) (v : Nat) : Option Cause :=
  if dMax s < v then some .inputWidth else none

/-- The encoded-value width check of the other element commands (`41_codec.md` rule R99). -/
def encodedWidthFault (s : State) (v : Nat) : Option Cause :=
  if modulus s ≤ v then some .inputWidth else none

/-- The range test of `CHK` (`41_codec.md` rules R95, R103). -/
def rangeFault (s : State) (v : Nat) : Option Cause :=
  if dMax s < decodedValue s v then some .range else none

/-- Operand legality (`42_arithmetic.md` rule R117); the zero test is made by `DIV` alone. -/
def operandFault (s : State) (isDiv : Bool) : Option Cause :=
  if dMax s < s.opd.toNat then some .operandRange
  else if isDiv && s.opd.toNat == 0 then some .divZero
  else none

/-- The register of index `r`, zero-extended to 128 bits (`10_state.md` rule R21, `43_call_control.md` rule R141);
the reserved indices read 0. -/
def readRegister (s : State) (r : Nat) : Data :=
  match r with
  | 0 => (statusWord s).setWidth 128
  | 1 => (cfgwWord s).setWidth 128
  | 2 => s.a.setWidth 128
  | 3 => s.ainv.setWidth 128
  | 4 => (BitVec.ofNat 64 (dMax s)).setWidth 128
  | 5 => s.opd.setWidth 128
  | 6 => s.idx.setWidth 128
  | 7 => s.iter.setWidth 128
  | 8 => (errinfoWord s).setWidth 128
  | 9 => s.erroff.setWidth 128
  | 10 => s.erriter.setWidth 128
  | _ => 0

end Sys2Proof.Machine
end

