-- ==== Sys2Proof/Machine/Ops.lean ====
section
/-! DEFINITION. The shared operations: the response, the register writes of `10_state.md` rule R36, the error entry and
the refusal of `60_exceptions.md` section 3, and what every element command does first and last. -/

namespace Sys2Proof.Machine

/-! ## State updates: the writes of `10_state.md` rule R36 and the interface -/

/-- The response `(r, d)` is produced (`00_scope.md` rule R9). -/
def State.respond (s : State) (r : RespCode) (d : Data) : State :=
  { s with responses := s.responses ++ [⟨r, d⟩] }

/-- `IDX <- (IDX + 1) mod 2^64` (`10_state.md` rule R29). -/
def State.advance (s : State) : State := { s with idx := s.idx + 1 }

/-- `OPD <- din[63:0]` (`42_arithmetic.md` rule R116). -/
def State.loadOperand (s : State) : State := { s with opd := s.din.setWidth 64 }

/-- A configuration is installed (`41_codec.md` rule R96). -/
def State.install (s : State) (win wout a ainv : Nat) : State :=
  { s with
    win := BitVec.ofNat 8 win
    wout := BitVec.ofNat 8 wout
    a := BitVec.ofNat 64 a
    ainv := BitVec.ofNat 64 ainv
    cfgok := true }

/-- `STATUS.CFGOK <- 0` (`41_codec.md` rule R97). -/
def State.unconfigure (s : State) : State := { s with cfgok := false }

/-- The error record is written with the current `IDX` and `ITER` and the latch is set (`60_exceptions.md` rule R163). -/
def State.latch (s : State) (tag : Byte) (kind : ErrKind) (cause : Cause) : State :=
  { s with
    errKind := kind
    errCause := cause
    errTag := tag
    erroff := s.idx
    erriter := s.iter
    err := true }

/-- A call is opened: counters, latch and record are zeroed (`43_call_control.md` rule R139). -/
def State.openCall (s : State) : State :=
  { s with
    idx := 0
    iter := 0
    err := false
    errKind := .none
    errCause := .none
    errTag := 0
    erroff := 0
    erriter := 0 }

/-- The next iteration is opened: `ITER <- (ITER + 1) mod 2^32`, `IDX <- 0` (`43_call_control.md` rule R140). -/
def State.openIteration (s : State) : State := { s with iter := s.iter + 1, idx := 0 }

/-- A command is accepted: its data operand is on `din` and the host's list moves on (`20_memory.md` rule R58). -/
def State.accept (s : State) (d : Data) (rest : List HostInput) : State :=
  { s with din := d, pending := rest }

/-- Reset: every bit of the architectural state becomes 0 and no response is produced (`70_reset_and_hazards.md` rule R180).
What the host has received and what it will still issue are the host's (log entry 4). -/
def State.applyReset (s : State) (rest : List HostInput) : State :=
  { State.reset with pending := rest, responses := s.responses }

/-! ## Outcomes shared by commands -/

/-- A command completes with `OK` and a result (`30_encoding.md` rule R76). -/
def complete (d : Nat) (s : State) : Result := .next (s.respond .ok (BitVec.ofNat 128 d))

/-- The error entry of `60_exceptions.md` rule R163: record, latch, and the response `(kind, cause)`. -/
def errorEntry (tag : Byte) (kind : ErrKind) (cause : Cause) (s : State) : Result :=
  .next ((s.latch tag kind cause).respond kind.resp (cause.code.setWidth 128))

/-- `raise Corruption(cause)` or `raise Config(cause)` of an element command: the error entry with the kind that
`60_exceptions.md` rule R156 gives the cause. -/
def raiseError (tag : Byte) (cause : Cause) (s : State) : Result := errorEntry tag cause.kind cause s

/-- The unlatched error response of `INV` and `CFG` (`60_exceptions.md` rule R164). -/
def rejectConfig (cause : Cause) (s : State) : Result := .next (s.respond .config (cause.code.setWidth 128))

/-- The refusal `(ABORTED, 0)` while an error is latched: no state change (`60_exceptions.md` rule R165). -/
def refuseAborted (s : State) : Result := .next (s.respond .aborted 0)

/-- An illegal word: `(ILLEGAL, 0)`, no state change, whatever made it illegal (`60_exceptions.md` rule R166). -/
def illegalWord (_reason : Reject) (s : State) : Result := .next (s.respond .illegal 0)

/-- No input waits: ANC is idle with its state held (`60_exceptions.md` rule R171; log entry 2). -/
def idle (s : State) : Result := .next s

/-- `rst` is asserted between two commands (`70_reset_and_hazards.md` rule R180; log entry 4). -/
def takeReset (rest : List HostInput) (s : State) : Result := .next (s.applyReset rest)

/-- The first of a list of tests that fails decides the cause (`60_exceptions.md` rule R159). -/
def firstFault : List (Option Cause) → Option Cause
  | [] => none
  | some c :: _ => some c
  | none :: rest => firstFault rest

/-- The prologue and epilogue of every element command (`41_codec.md` rule R98): P1 the refusal, P2 the configuration
test, then the command's own tests and result, then `IDX` advances and the result is delivered. -/
def elementCommand (tag : Byte) (result : Except Cause Nat) (s : State) : Result :=
  if s.err then refuseAborted s
  else if !s.cfgok then raiseError tag .notConfigured s
  else
    match result with
    | .error cause => raiseError tag cause s
    | .ok d => complete d s.advance

end Sys2Proof.Machine
end

