-- ==== Sys2Proof/Machine/Solver.lean ====
section
/-! DEFINITION. The modular-inverse solver and `INV` (`40_solver.md`). -/

namespace Sys2Proof.Machine

/-- The loop of `40_solver.md` rule R88: `(r_prev, r, s_prev, s)` until `r = 0`; the answer is `s_prev`.
The first argument bounds the number of passes, for the recursion's sake. PRESUMED: the steps are marked by the spec as
general knowledge (log entry 9); the result is fixed by rule R86. -/
def euclid : Nat → Nat → Nat → Int → Int → Int
  | 0, _, _, sPrev, _ => sPrev
  | passes + 1, rPrev, r, sPrev, s =>
    if r = 0 then sPrev
    else euclid passes r (rPrev - rPrev / r * r) s (sPrev - (rPrev / r : Nat) * s)

/-- `modinv(a, w)` (`40_solver.md` rule R86): the Bézout coefficient reduced into `[0, 2^w)` (rule R85).
Two passes halve the remainder, so `2 × w + 2` passes are enough. -/
def modinv (a w : Nat) : Nat := (euclid (2 * w + 2) a (2 ^ w) 1 0 % (2 ^ w : Nat)).toNat

/-- `INV w ; a` (`40_solver.md` rule R87): width first, then parity; no state is written, in any case. -/
def execInv (w : Nat) (s : State) : Result :=
  if w = 0 ∨ Config.wmaxSolver < w then rejectConfig .unsupportedWidth s
  else if bits (dataOperand s) 0 0 = 0 then rejectConfig .evenA s
  else complete (modinv (dataOperand s) w) s

end Sys2Proof.Machine
end

