-- ==== Sys2Proof/Machine/Codec.lean ====
section
/-! DEFINITION. The AN codec: `CFG`, `ENC`, `CHK`, `DEC` (`41_codec.md`). -/

namespace Sys2Proof.Machine

/-- The five checks of `CFG`, in their order (`41_codec.md` rule R96). -/
def configFault (win wout d : Nat) : Option Cause :=
  if wout = 0 ∨ Config.wmaxCodec < wout then some .unsupportedWidth
  else if win = 0 ∨ wout < win then some .widthCombination
  else if bits d 0 0 = 0 then some .evenA
  else if d = 1 then some .widthCombination
  else if 2 ^ wout - 1 < (2 ^ win - 1) * d then some .widthCombination
  else none

/-- `CFG win, wout ; a` (`41_codec.md` rules R96, R97): a failing check clears `CFGOK` and is not latched. -/
def execCfg (win wout : Nat) (s : State) : Result :=
  match configFault win wout (dataOperand s) with
  | some cause => rejectConfig cause s.unconfigure
  | none =>
    complete (modinv (dataOperand s) wout) (s.install win wout (dataOperand s) (modinv (dataOperand s) wout))

/-- The tests and result of `ENC` (`41_codec.md` rule R100): the exact product, no reduction. -/
def encElement (s : State) (v : Nat) : Except Cause Nat :=
  match rawWidthFault s v with
  | some cause => .error cause
  | none => .ok (encodedValue s v)

/-- `ENC ; x` (`41_codec.md` rule R100). -/
def execEnc (s : State) : Result := elementCommand (opcode .enc) (encElement s (dataOperand s)) s

/-- The tests and result of `CHK` (`41_codec.md` rule R103): the decoded value is not delivered. -/
def chkElement (s : State) (v : Nat) : Except Cause Nat :=
  match firstFault [encodedWidthFault s v, rangeFault s v] with
  | some cause => .error cause
  | none => .ok 0

/-- `CHK ; v` (`41_codec.md` rule R103). -/
def execChk (s : State) : Result := elementCommand (opcode .chk) (chkElement s (dataOperand s)) s

/-- The tests and result of `DEC` (`41_codec.md` rule R104): `CHK`'s tests, and the decoded value. -/
def decElement (s : State) (v : Nat) : Except Cause Nat :=
  match firstFault [encodedWidthFault s v, rangeFault s v] with
  | some cause => .error cause
  | none => .ok (decodedValue s v)

/-- `DEC ; v` (`41_codec.md` rule R104). -/
def execDec (s : State) : Result := elementCommand (opcode .dec) (decElement s (dataOperand s)) s

end Sys2Proof.Machine
end

