-- ==== Sys2Proof/Machine/Arith.lean ====
section
/-! DEFINITION. The checked arithmetic unit: `SETOP`, `ADD`, `SUB`, `MUL`, `DIV` (`42_arithmetic.md`). -/

namespace Sys2Proof.Machine

/-- `SETOP ; y` (`42_arithmetic.md` rule R116): never refused, no check. -/
def execSetop (s : State) : Result := complete 0 s.loadOperand

/-- Tests P3, P4, P5 of the common body (`42_arithmetic.md` rule R118), then the command's own result. -/
def arithElement (isDiv : Bool) (s : State) (v : Nat) (result : Except Cause Nat) : Except Cause Nat :=
  match firstFault [encodedWidthFault s v, operandFault s isDiv, rangeFault s v] with
  | some cause => .error cause
  | none => result

/-- The tests and result of `ADD` (`42_arithmetic.md` rule R119): `(v + OPD × A) mod M`. -/
def addElement (s : State) (v : Nat) : Except Cause Nat :=
  arithElement false s v (.ok ((v + encodedValue s s.opd.toNat) % modulus s))

/-- `ADD ; v` (`42_arithmetic.md` rule R119). -/
def execAdd (s : State) : Result := elementCommand (opcode .add) (addElement s (dataOperand s)) s

/-- The tests and result of `SUB` (`42_arithmetic.md` rule R120): `(v − OPD × A) mod M`, the remainder in `[0, M)`. -/
def subElement (s : State) (v : Nat) : Except Cause Nat :=
  arithElement false s v
    (.ok (((v : Int) - (encodedValue s s.opd.toNat : Int)) % (modulus s : Int)).toNat)

/-- `SUB ; v` (`42_arithmetic.md` rule R120). -/
def execSub (s : State) : Result := elementCommand (opcode .sub) (subElement s (dataOperand s)) s

/-- The tests and result of `MUL` (`42_arithmetic.md` rule R121): `(v × OPD) mod M`, the operand not scaled by `A`. -/
def mulElement (s : State) (v : Nat) : Except Cause Nat :=
  arithElement false s v (.ok (v * s.opd.toNat % modulus s))

/-- `MUL ; v` (`42_arithmetic.md` rule R121). -/
def execMul (s : State) : Result := elementCommand (opcode .mul) (mulElement s (dataOperand s)) s

/-- Step P6 of `DIV` (`42_arithmetic.md` rule R122): the remainder must be 0 and the quotient must pass the range test. -/
def quotient (s : State) (v : Nat) : Except Cause Nat :=
  if v % s.opd.toNat ≠ 0 then .error .divisibility
  else if dMax s < decodedValue s (v / s.opd.toNat) then .error .resultRange
  else .ok (v / s.opd.toNat)

/-- The tests and result of `DIV` (`42_arithmetic.md` rule R122). -/
def divElement (s : State) (v : Nat) : Except Cause Nat := arithElement true s v (quotient s v)

/-- `DIV ; v` (`42_arithmetic.md` rule R122). -/
def execDiv (s : State) : Result := elementCommand (opcode .div) (divElement s (dataOperand s)) s

end Sys2Proof.Machine
end

