-- ==== Sys2Proof/Machine/Control.lean ====
section
/-! DEFINITION. Call control and register access: `NOP`, `START`, `NEXTITER`, `RDREG` (`43_call_control.md`), and the
command lists of its section 2. -/

namespace Sys2Proof.Machine

/-- `NOP` (`43_call_control.md` rule R136). -/
def execNop (s : State) : Result := complete 0 s

/-- `START` (`43_call_control.md` rule R139): never refused; the return from an error (`60_exceptions.md` rule R168). -/
def execStart (s : State) : Result := complete 0 s.openCall

/-- `NEXTITER` (`43_call_control.md` rule R140). -/
def execNextiter (s : State) : Result :=
  if s.err then refuseAborted s else complete 0 s.openIteration

/-- `RDREG r` (`43_call_control.md` rule R141): no side effect, never refused. -/
def execRdreg (r : Nat) (s : State) : Result := .next (s.respond .ok (readRegister s r))

/-- The element function of an element command in a configured state (`43_call_control.md` rule R144): `f(v)`. -/
def elementResult (op : ElementOp) (s : State) (v : Nat) : Except Cause Nat :=
  match op with
  | .enc => encElement s v
  | .chk => chkElement s v
  | .dec => decElement s v
  | .add => addElement s v
  | .sub => subElement s v
  | .mul => mulElement s v
  | .div => divElement s v

/-- A command as the host issues it, in the form `MNEMONIC fields ; din` (`30_encoding.md` rule R77): a missing data
operand means 0. -/
def issue (i : Instr) (d : Data := 0) : HostInput := .command (encode i) d

/-- The element commands of one pass over a buffer (`30_encoding.md` rule R78). -/
def passOf (op : ElementOp) (vs : List Data) : List HostInput := vs.map fun v => issue op.instr v

/-- `BULK.<op> [v0, ..., v(n-1)]` (`30_encoding.md` rule R78). -/
def bulk (op : ElementOp) (vs : List Data) : List HostInput := issue .start :: passOf op vs

/-- The later passes of `REPEAT`: each is `NEXTITER` and the element commands (`30_encoding.md` rule R78). -/
def laterPasses (op : ElementOp) (vs : List Data) : Nat → List HostInput
  | 0 => []
  | k + 1 => issue .nextiter :: (passOf op vs ++ laterPasses op vs k)

/-- `REPEAT.<op> k, [v0, ..., v(n-1)]` for `k ≥ 1` (`30_encoding.md` rule R78). -/
def repeatPasses (op : ElementOp) (k : Nat) (vs : List Data) : List HostInput :=
  bulk op vs ++ laterPasses op vs (k - 1)

end Sys2Proof.Machine
end

