-- ==== Sys2Proof/Machine/Dispatch.lean ====
section
/-! DEFINITION. One arm per command (`30_encoding.md` rule R73), each a call of its meaning. -/

namespace Sys2Proof.Machine

def exec (i : Instr) (s : State) : Host.Outcome State Fault Refusal :=
  match i with
  -- 43_call_control.md
  | .nop => Sys2Proof.Machine.execNop s
  -- 40_solver.md
  | .inv w => Sys2Proof.Machine.execInv w s
  -- 41_codec.md
  | .cfg win wout => Sys2Proof.Machine.execCfg win wout s
  -- 42_arithmetic.md
  | .setop => Sys2Proof.Machine.execSetop s
  -- 43_call_control.md
  | .start => Sys2Proof.Machine.execStart s
  | .nextiter => Sys2Proof.Machine.execNextiter s
  | .rdreg r => Sys2Proof.Machine.execRdreg r s
  -- 41_codec.md
  | .enc => Sys2Proof.Machine.execEnc s
  | .chk => Sys2Proof.Machine.execChk s
  | .dec => Sys2Proof.Machine.execDec s
  -- 42_arithmetic.md
  | .add => Sys2Proof.Machine.execAdd s
  | .sub => Sys2Proof.Machine.execSub s
  | .mul => Sys2Proof.Machine.execMul s
  | .div => Sys2Proof.Machine.execDiv s

end Sys2Proof.Machine
end

