-- ==== Sys2Proof/Machine/Step.lean ====
section
/-! DEFINITION. One step of ANC: the host's next input is taken and executed whole (`20_memory.md` rule R58). -/

namespace Sys2Proof.Machine

/-- A word is executed: as its command, or as an illegal word (`30_encoding.md` rule R74). -/
def runWord (c : CmdWord) (s : State) : Host.Outcome State Fault Refusal :=
  match decode c with
  | .ok i => exec i s
  | .error reason => illegalWord reason s

/-- One step: the host's next command, a reset, or idling when nothing waits. -/
def step (s : State) : Host.Outcome State Fault Refusal :=
  match s.pending with
  | [] => idle s
  | .rst :: rest => takeReset rest s
  | .command c d :: rest => runWord c (s.accept d rest)

/-- `s` with the table's word `w` as the command the next step executes, with data operand 0 (`30_encoding.md` rule R77:
a missing data operand means 0); what the host had waiting comes after it (log entry 3). -/
def State.withFetchWord (s : State) (nbits w : Nat) : State :=
  { s with pending := .command (BitVec.ofNat 32 (w % 2 ^ nbits)) 0 :: s.pending }

end Sys2Proof.Machine
end

