-- ==== Sys2Proof/Safety.lean ====
section
/-! DEFINITION. The invariants the spec states of every reachable state, in the terms claims use. -/

namespace Sys2Proof.Machine

/-- A value below `M` is valid when it decodes to at most `DMAX` (`41_codec.md` rule R95). -/
abbrev Valid (s : State) (v : Nat) : Prop := v < modulus s ∧ decodedValue s v ≤ dMax s

/-- The configuration invariant of `10_state.md` rule R26, clauses (a) to (e). -/
abbrev ConfigInv (s : State) : Prop :=
  s.cfgok = true →
    (1 ≤ s.win.toNat ∧ s.win.toNat ≤ s.wout.toNat ∧ s.wout.toNat ≤ 64) ∧
    (s.a.toNat % 2 = 1 ∧ 3 ≤ s.a.toNat) ∧
    dMax s * s.a.toNat ≤ 2 ^ s.wout.toNat - 1 ∧
    (s.ainv.toNat < 2 ^ s.wout.toNat ∧ s.a.toNat * s.ainv.toNat % 2 ^ s.wout.toNat = 1) ∧
    s.win.toNat < s.wout.toNat

/-- The opcodes of the element commands (`10_state.md` rule R34): `0x10` to `0x12`, `0x18` to `0x1B`. -/
def elementOpcodes : List Byte := [0x10, 0x11, 0x12, 0x18, 0x19, 0x1A, 0x1B]

/-- The error record invariant of `10_state.md` rule R34. -/
abbrev RecordInv (s : State) : Prop :=
  (s.err = false →
    s.errKind = .none ∧ s.errCause = .none ∧ s.errTag = 0 ∧ s.erroff = 0 ∧ s.erriter = 0) ∧
  (s.err = true →
    s.errKind ≠ .none ∧ s.errCause ≠ .none ∧ s.errTag ∈ elementOpcodes)

/-- What a latched error record agrees with: the kind is the cause's (`60_exceptions.md` rule R156), and the offset and
iteration are still the counters' values, because nothing that moves a counter runs while an error is latched
(`60_exceptions.md` rules R163, R165). DEDUCED: the spec states this of the moment of entry only (log entry 14). -/
abbrev RecordAgrees (s : State) : Prop :=
  s.err = true → s.errKind = s.errCause.kind ∧ s.erroff = s.idx ∧ s.erriter = s.iter

/-- A bound on the widths of `CFGW` in every reachable state, configured or not: a successful `CFG` installs widths within
it, a failing `CFG` leaves them, and reset makes both 0 (`10_state.md` rules R23, R36; log entry 14). -/
abbrev WidthInv (s : State) : Prop := s.win.toNat ≤ s.wout.toNat ∧ s.wout.toNat ≤ 64

/-- Two states hold the same architectural state, the tuple of `10_state.md` rule R20. -/
abbrev SameRegisters (s t : State) : Prop :=
  s.cfgok = t.cfgok ∧ s.err = t.err ∧ s.win = t.win ∧ s.wout = t.wout ∧ s.a = t.a ∧ s.ainv = t.ainv ∧
  s.opd = t.opd ∧ s.idx = t.idx ∧ s.iter = t.iter ∧ s.errKind = t.errKind ∧ s.errCause = t.errCause ∧
  s.errTag = t.errTag ∧ s.erroff = t.erroff ∧ s.erriter = t.erriter

/-- Two states hold the same configuration: what a successful `CFG` writes (`10_state.md` rule R36). -/
abbrev SameConfig (s t : State) : Prop :=
  s.cfgok = t.cfgok ∧ s.win = t.win ∧ s.wout = t.wout ∧ s.a = t.a ∧ s.ainv = t.ainv

/-- The command `i` in the state `s` responds `(OK, d)` and leaves the state `t`. -/
abbrev AnswersOk (i : Instr) (s t : State) (d : Data) : Prop :=
  exec i s = .next t ∧ t.responses = s.responses ++ [⟨.ok, d⟩]

/-- The tests of an element command after the refusal, in the order of `60_exceptions.md` rule R159: each with the
condition of rule R156 under which it hits. -/
def elementTests (op : ElementOp) (s : State) : List (Bool × Cause) :=
  let v := s.din.toNat
  let y := s.opd.toNat
  let m := 2 ^ s.wout.toNat
  let top := 2 ^ s.win.toNat - 1
  let unconfigured := (!s.cfgok, Cause.notConfigured)
  let tooWide := (decide (m ≤ v), Cause.inputWidth)
  let operand := (decide (top < y), Cause.operandRange)
  let lane := (decide (top < v * s.ainv.toNat % m), Cause.range)
  match op with
  | .enc => [unconfigured, (decide (top < v), .inputWidth)]
  | .chk | .dec => [unconfigured, tooWide, lane]
  | .add | .sub | .mul => [unconfigured, tooWide, operand, lane]
  | .div =>
    [unconfigured, tooWide, operand, (decide (y = 0), .divZero), lane,
      (decide (v % y ≠ 0), .divisibility), (decide (top < v / y * s.ainv.toNat % m), .resultRange)]

/-- The six commands that execute normally while an error is latched (`60_exceptions.md` rule R165). -/
def runsWhileLatched : Instr → Bool
  | .nop | .inv _ | .cfg _ _ | .setop | .start | .rdreg _ => true
  | .nextiter | .enc | .chk | .dec | .add | .sub | .mul | .div => false

/-- The seven element commands of `00_scope.md` rule R13. -/
def isElement : Instr → Bool
  | .enc | .chk | .dec | .add | .sub | .mul | .div => true
  | .nop | .inv _ | .cfg _ _ | .setop | .start | .nextiter | .rdreg _ => false

/-- The five commands that deliver no result: `dout` is 0 on `OK` (`30_encoding.md` rules R73, R76). -/
def hasNoResult : Instr → Bool
  | .nop | .setop | .start | .nextiter | .chk => true
  | .inv _ | .cfg _ _ | .rdreg _ | .enc | .dec | .add | .sub | .mul | .div => false

/-- The commands of one pass as the host issues them: everything but `START` and `NEXTITER`, which open another pass
(`43_call_control.md` rule R135). -/
def inOnePass (cs : List (Instr × Data)) : Bool :=
  cs.all fun p => p.1.wellFormed && p.1 != .start && p.1 != .nextiter

end Sys2Proof.Machine
end

