-- ==== Sys2Proof/Certificates/Slice0/Obligations.lean ====
section
/-! DEFINITION. The statements of this model, each from the spec's numbered rules; OBLIGATIONS.json lists them.
Where a statement speaks of several commands, the host's list of inputs in the state (log entry 1) stands for the list of
`00_scope.md` rule R15. A next state is written as an explicit record update, so that every field not named is unchanged:
that is its frame. ANC has no memory (`20_memory.md` rule R50), so no frame speaks of memory. -/

open Sys2Proof Sys2Proof.Machine

/-! ## Reset and idling -/

/-- `10_state.md` rule R41: after reset every bit of the architectural state is 0. -/
def Obligations.ResetLeavesEveryRegisterZero : Prop :=
  State.reset.cfgok = false ∧ State.reset.err = false ∧ State.reset.win = 0 ∧ State.reset.wout = 0 ∧
  State.reset.a = 0 ∧ State.reset.ainv = 0 ∧ State.reset.opd = 0 ∧ State.reset.idx = 0 ∧ State.reset.iter = 0 ∧
  State.reset.errKind.code = 0 ∧ State.reset.errCause.code = 0 ∧ State.reset.errTag = 0 ∧
  State.reset.erroff = 0 ∧ State.reset.erriter = 0 ∧ errO State.reset = false

/-- `10_state.md` rules R26 and R34, and the two inferred invariants of log entry 14, hold in the reset state, whatever the
host is going to issue. -/
def Obligations.ResetMeetsTheInvariants : Prop :=
  ∀ inputs : List HostInput, ∀ s : State, s = { State.reset with pending := inputs } →
    ConfigInv s ∧ RecordInv s ∧ RecordAgrees s ∧ WidthInv s

/-- `70_reset_and_hazards.md` rule R180: asserting `rst` gives the all-zero state, with no response. That `rst` stands in
the host's list between two commands, and that earlier responses are kept, is the model's choice (log entries 4, 6). -/
def Obligations.ResetInputGivesTheZeroState : Prop :=
  ∀ s : State, ∀ rest, s.pending = .rst :: rest →
    ∃ t, step s = .next t ∧ SameRegisters t State.reset ∧ t.pending = rest ∧ t.responses = s.responses

/-- `60_exceptions.md` rule R171: between commands ANC is idle with its state held. That a step with nothing waiting is
an idle step is the model's reading (log entry 2). -/
def Obligations.IdleStepHoldsTheState : Prop :=
  ∀ s : State, s.pending = [] → step s = .next s

/-- `43_call_control.md` rule R138: the reset state is the state `START` produces. -/
def Obligations.StartAfterResetChangesNoRegister : Prop :=
  ∃ t, exec .start State.reset = .next t ∧ SameRegisters t State.reset

/-! ## Encoding and stepping -/

/-- `30_encoding.md` rules R67 to R73: no bit of an encoding is dropped. -/
def Obligations.DecodeOfEncodeIsTheCommand : Prop :=
  ∀ i : Instr, WellFormed i → decode (encode i) = .ok i

/-- `30_encoding.md` rules R66 to R74: each legal word has one meaning, and is that command's encoding. -/
def Obligations.EncodeOfDecodeIsTheWord : Prop :=
  ∀ c : CmdWord, ∀ i : Instr, decode c = .ok i → WellFormed i ∧ encode i = c

/-- `30_encoding.md` rules R73, R74: a word is a command exactly when it selects a row of the opcode map, it is then the
command of that row, and no word selects two rows. -/
def Obligations.LegalWordsAreThoseOfTheOpcodeMap : Prop :=
  (∀ c : CmdWord, (∃ i, decode c = .ok i) ↔ ∃ row ∈ opcodeTable, c &&& row.maskBits = row.matchBits) ∧
  (∀ c : CmdWord, ∀ i, decode c = .ok i → c &&& (opcodeRow i).maskBits = (opcodeRow i).matchBits) ∧
  (∀ c : CmdWord, ∀ row ∈ opcodeTable, ∀ row' ∈ opcodeTable,
    c &&& row.maskBits = row.matchBits → c &&& row'.maskBits = row'.matchBits → row = row')

/-- Words written out from `30_encoding.md` rules R73 and R77, one or more of each family. -/
def Obligations.WordsOfTheSpecDecode : Prop :=
  decode 0x00000000 = .ok .nop ∧ decode 0x00000801 = .ok (.inv 8) ∧ decode 0x00102002 = .ok (.cfg 16 32) ∧
  decode 0x00000906 = .ok (.rdreg 9) ∧ decode 0x00000010 = .ok .enc ∧ decode 0x00000019 = .ok .sub ∧
  decode 0x0000001B = .ok .div

/-- `30_encoding.md` rule R74 and `20_memory.md` rule R58: a step takes the host's next command and executes the command
its word decodes to, with its data operand on `din`. -/
def Obligations.StepRunsTheDecodedCommand : Prop :=
  ∀ s : State, ∀ c d rest i, s.pending = .command c d :: rest → decode c = .ok i →
    step s = exec i { s with pending := rest, din := d }

/-- `60_exceptions.md` rule R166: a word that selects no command responds `(ILLEGAL, 0)` and changes no state, with or
without a latched error. -/
def Obligations.IllegalWordChangesNoState : Prop :=
  ∀ s : State, ∀ c d rest, s.pending = .command c d :: rest →
    (∀ row ∈ opcodeTable, c &&& row.maskBits ≠ row.matchBits) →
    step s = .next { s with pending := rest, din := d, responses := s.responses ++ [⟨.illegal, 0⟩] }

/-- `00_scope.md` rule R15: a run over any finite list of `(cmd, din)` pairs from any state ends, with one response per
command. -/
def Obligations.EveryCommandOfARunIsAnswered : Prop :=
  ∀ s : State, ∀ cs : List (CmdWord × Data), s.pending = cs.map (fun p => HostInput.command p.1 p.2) →
    ∃ (t : State) (rs : List Response), core.run cs.length s = Host.Outcome.next t ∧ t.pending = [] ∧
      t.responses = s.responses ++ rs ∧ rs.length = cs.length

/-- `30_encoding.md` rule R76: what `dout` carries with each response code. -/
def Obligations.ErrorResponsesCarryTheCause : Prop :=
  ∀ s t : State, ∀ i r, exec i s = .next t → t.responses = s.responses ++ [r] →
    (r.resp = .corruption ∨ r.resp = .config →
      ∃ cause : Cause, cause ≠ .none ∧ cause.kind.resp = r.resp ∧ r.dout = cause.code.setWidth 128) ∧
    (r.resp = .aborted → r.dout = 0) ∧ r.resp ≠ .illegal ∧
    (r.resp = .ok → hasNoResult i = true → r.dout = 0)

/-! ## Control commands -/

/-- `43_call_control.md` rule R136: the all-zero word is `NOP`, which responds `(OK, 0)` and writes nothing, in every
state. -/
def Obligations.NopOnlyResponds : Prop :=
  decode 0x00000000 = .ok .nop ∧
  ∀ s : State, exec .nop s = .next { s with responses := s.responses ++ [⟨.ok, 0⟩] }

/-- `43_call_control.md` rule R139: `START` zeroes the counters, the latch and the record, in every state. -/
def Obligations.StartOpensACall : Prop :=
  decode 0x00000004 = .ok .start ∧
  ∀ s : State, exec .start s = .next
    { s with
      idx := 0, iter := 0, err := false, errKind := .none, errCause := .none, errTag := 0, erroff := 0, erriter := 0,
      responses := s.responses ++ [⟨.ok, 0⟩] }

/-- `43_call_control.md` rule R140: `NEXTITER` counts the iteration and zeroes `IDX`; it is refused while an error is
latched. -/
def Obligations.NextiterOpensTheNextIteration : Prop :=
  decode 0x00000005 = .ok .nextiter ∧
  ∀ s : State,
    (s.err = false → exec .nextiter s = .next
      { s with
        iter := BitVec.ofNat 32 ((s.iter.toNat + 1) % 2 ^ 32), idx := 0,
        responses := s.responses ++ [⟨.ok, 0⟩] }) ∧
    (s.err = true → exec .nextiter s = .next { s with responses := s.responses ++ [⟨.aborted, 0⟩] })

/-- `43_call_control.md` rule R141 with the register map of `10_state.md` rule R21: `RDREG r` returns the register of
index `r` and changes nothing, in every state whose `WIN` is one the machine can hold. -/
def Obligations.RdregReturnsTheRegister : Prop :=
  (∀ r : Nat, r < 2 ^ 4 → decode (BitVec.ofNat 32 (r * 2 ^ 8 + 0x06)) = .ok (.rdreg r)) ∧
  ∀ s : State, ∀ r : Nat, WidthInv s →
    ∃ d : Data, exec (.rdreg r) s = .next { s with responses := s.responses ++ [⟨.ok, d⟩] } ∧
      d.toNat = match r with
        | 0 => (if s.cfgok then 1 else 0) + 2 * (if s.err then 1 else 0)
        | 1 => s.win.toNat + 2 ^ 8 * s.wout.toNat
        | 2 => s.a.toNat
        | 3 => s.ainv.toNat
        | 4 => 2 ^ s.win.toNat - 1
        | 5 => s.opd.toNat
        | 6 => s.idx.toNat
        | 7 => s.iter.toNat
        | 8 => s.errKind.code.toNat + 2 ^ 4 * s.errCause.code.toNat + 2 ^ 8 * s.errTag.toNat
        | 9 => s.erroff.toNat
        | 10 => s.erriter.toNat
        | _ => 0

/-- `42_arithmetic.md` rule R116: `SETOP` keeps the low 64 bits of `din` as the plain operand, in every state. -/
def Obligations.SetopLoadsTheOperand : Prop :=
  decode 0x00000003 = .ok .setop ∧
  ∀ s : State, exec .setop s = .next
    { s with opd := BitVec.ofNat 64 (s.din.toNat % 2 ^ 64), responses := s.responses ++ [⟨.ok, 0⟩] }

/-! ## The solver -/

/-- `40_solver.md` rules R86 and R90: for every odd `din` and every `w` in `1 .. 127`, `INV` responds with the one number
below `2^w` whose product with `din` is 1 modulo `2^w`, and writes nothing. -/
def Obligations.InvReturnsTheInverse : Prop :=
  ∀ s : State, ∀ w : Nat, 1 ≤ w → w ≤ 127 → s.din.toNat % 2 = 1 →
    ∃ x : Nat, x < 2 ^ w ∧ s.din.toNat * x % 2 ^ w = 1 ∧
      (∀ y : Nat, y < 2 ^ w → s.din.toNat * y % 2 ^ w = 1 → y = x) ∧
      exec (.inv w) s = .next { s with responses := s.responses ++ [⟨.ok, BitVec.ofNat 128 x⟩] }

/-- `40_solver.md` rule R87: the width is tested before the parity, and a failing `INV` writes nothing. -/
def Obligations.InvRejectsWidthThenParity : Prop :=
  ∀ s : State, ∀ w : Nat,
    (w = 0 ∨ 127 < w → exec (.inv w) s = .next { s with responses := s.responses ++ [⟨.config, 6⟩] }) ∧
    (1 ≤ w → w ≤ 127 → s.din.toNat % 2 = 0 →
      exec (.inv w) s = .next { s with responses := s.responses ++ [⟨.config, 4⟩] })

/-- `40_solver.md` rules R85, R87: `INV` reads no register: its response depends on `w` and `din` alone. -/
def Obligations.InvIsAFunctionOfItsOperands : Prop :=
  ∀ s s' : State, ∀ w : Nat, s.din = s'.din →
    ∃ r : Response, exec (.inv w) s = .next { s with responses := s.responses ++ [r] } ∧
      exec (.inv w) s' = .next { s' with responses := s'.responses ++ [r] }

/-! ## Configuration -/

/-- `41_codec.md` rule R96: when the five checks pass, `CFG` installs the widths, the constant and its inverse, each
register holding the number exactly, and writes nothing else. -/
def Obligations.CfgInstallsTheConfiguration : Prop :=
  ∀ s : State, ∀ win wout : Nat, 1 ≤ win → win ≤ wout → 1 ≤ wout → wout ≤ 64 → s.din.toNat % 2 = 1 → s.din.toNat ≠ 1 →
    (2 ^ win - 1) * s.din.toNat ≤ 2 ^ wout - 1 →
    ∃ x : Nat, x < 2 ^ wout ∧ s.din.toNat * x % 2 ^ wout = 1 ∧
      ∃ t : State, exec (.cfg win wout) s = .next t ∧
        t = { s with
          win := t.win, wout := t.wout, a := t.a, ainv := t.ainv, cfgok := true,
          responses := s.responses ++ [⟨.ok, BitVec.ofNat 128 x⟩] } ∧
        t.win.toNat = win ∧ t.wout.toNat = wout ∧ t.a.toNat = s.din.toNat ∧ t.ainv.toNat = x

/-- `41_codec.md` rules R96 and R97: the checks are made in order, the first that fails decides the cause, and a failing
`CFG` clears `CFGOK` and writes nothing else. -/
def Obligations.CfgFailureClearsCfgok : Prop :=
  ∀ s : State, ∀ win wout : Nat, ∀ cause : Nat,
    cause = (if wout = 0 ∨ 64 < wout then 6
      else if win = 0 ∨ wout < win then 5
      else if s.din.toNat % 2 = 0 then 4
      else if s.din.toNat = 1 then 5
      else if 2 ^ wout - 1 < (2 ^ win - 1) * s.din.toNat then 5
      else 0) →
    cause ≠ 0 →
    exec (.cfg win wout) s = .next
      { s with cfgok := false, responses := s.responses ++ [⟨.config, BitVec.ofNat 128 cause⟩] }

/-! ## Element commands: results -/

/-- `41_codec.md` rules R100 and R101: `ENC` of a legal raw value responds with the exact product, which fits `WOUT`
bits, and advances `IDX`. -/
def Obligations.EncDeliversTheExactProduct : Prop :=
  ∀ s : State, ConfigInv s → s.cfgok = true → s.err = false → s.din.toNat ≤ 2 ^ s.win.toNat - 1 →
    s.din.toNat * s.a.toNat < 2 ^ s.wout.toNat ∧
    exec .enc s = .next
      { s with
        idx := BitVec.ofNat 64 ((s.idx.toNat + 1) % 2 ^ 64),
        responses := s.responses ++ [⟨.ok, BitVec.ofNat 128 (s.din.toNat * s.a.toNat)⟩] }

/-- `41_codec.md` rule R103: `CHK` of a valid value responds `(OK, 0)` and advances `IDX`. -/
def Obligations.ChkPassesAValidValue : Prop :=
  ∀ s : State, s.cfgok = true → s.err = false → s.din.toNat < 2 ^ s.wout.toNat →
    s.din.toNat * s.ainv.toNat % 2 ^ s.wout.toNat ≤ 2 ^ s.win.toNat - 1 →
    exec .chk s = .next
      { s with
        idx := BitVec.ofNat 64 ((s.idx.toNat + 1) % 2 ^ 64), responses := s.responses ++ [⟨.ok, 0⟩] }

/-- `41_codec.md` rule R104: `DEC` of a valid value responds with the decoded value and advances `IDX`. -/
def Obligations.DecDeliversTheDecodedValue : Prop :=
  ∀ s : State, ConfigInv s → s.cfgok = true → s.err = false → s.din.toNat < 2 ^ s.wout.toNat →
    s.din.toNat * s.ainv.toNat % 2 ^ s.wout.toNat ≤ 2 ^ s.win.toNat - 1 →
    exec .dec s = .next
      { s with
        idx := BitVec.ofNat 64 ((s.idx.toNat + 1) % 2 ^ 64),
        responses := s.responses ++
          [⟨.ok, BitVec.ofNat 128 (s.din.toNat * s.ainv.toNat % 2 ^ s.wout.toNat)⟩] }

/-- `42_arithmetic.md` rules R119, R120, R121: on a valid value and a legal operand, `ADD`, `SUB` and `MUL` respond with
the result reduced modulo `M`, unchecked, and advance `IDX`. -/
def Obligations.AddSubMulDeliverTheReducedResult : Prop :=
  ∀ s : State, ConfigInv s → s.cfgok = true → s.err = false → s.din.toNat < 2 ^ s.wout.toNat →
    s.opd.toNat ≤ 2 ^ s.win.toNat - 1 →
    s.din.toNat * s.ainv.toNat % 2 ^ s.wout.toNat ≤ 2 ^ s.win.toNat - 1 →
    exec .add s = .next
      { s with
        idx := BitVec.ofNat 64 ((s.idx.toNat + 1) % 2 ^ 64),
        responses := s.responses ++
          [⟨.ok, BitVec.ofNat 128 ((s.din.toNat + s.opd.toNat * s.a.toNat) % 2 ^ s.wout.toNat)⟩] } ∧
    exec .sub s = .next
      { s with
        idx := BitVec.ofNat 64 ((s.idx.toNat + 1) % 2 ^ 64),
        responses := s.responses ++
          [⟨.ok, BitVec.ofNat 128
            (((s.din.toNat : Int) - (s.opd.toNat : Int) * (s.a.toNat : Int)) % (2 : Int) ^ s.wout.toNat).toNat⟩] } ∧
    exec .mul s = .next
      { s with
        idx := BitVec.ofNat 64 ((s.idx.toNat + 1) % 2 ^ 64),
        responses := s.responses ++
          [⟨.ok, BitVec.ofNat 128 (s.din.toNat * s.opd.toNat % 2 ^ s.wout.toNat)⟩] }

/-- `42_arithmetic.md` rule R122: on a valid value and a legal non-zero operand that divides it with a quotient in range,
`DIV` responds with the quotient and advances `IDX`. -/
def Obligations.DivDeliversTheExactQuotient : Prop :=
  ∀ s : State, s.cfgok = true → s.err = false → s.din.toNat < 2 ^ s.wout.toNat →
    s.opd.toNat ≤ 2 ^ s.win.toNat - 1 → s.opd.toNat ≠ 0 →
    s.din.toNat * s.ainv.toNat % 2 ^ s.wout.toNat ≤ 2 ^ s.win.toNat - 1 →
    s.din.toNat % s.opd.toNat = 0 →
    s.din.toNat / s.opd.toNat * s.ainv.toNat % 2 ^ s.wout.toNat ≤ 2 ^ s.win.toNat - 1 →
    exec .div s = .next
      { s with
        idx := BitVec.ofNat 64 ((s.idx.toNat + 1) % 2 ^ 64),
        responses := s.responses ++ [⟨.ok, BitVec.ofNat 128 (s.din.toNat / s.opd.toNat)⟩] }

/-! ## Element commands: errors -/

/-- `60_exceptions.md` rules R159 and R163, for the seven element commands with no error latched: the first test that
hits, in the order of rule R159, decides the cause; the record takes the kind, the cause, the opcode, `IDX` and `ITER`,
the latch is set, nothing else changes, and the response is `(kind, cause)`. If no test hits, the command completes. -/
def Obligations.FirstFailingTestIsRecorded : Prop :=
  ∀ s : State, ∀ op : ElementOp, s.err = false →
    (∀ cause : Cause, (elementTests op s).find? (fun p => p.1) = some (true, cause) →
      exec op.instr s = .next
        { s with
          errKind := cause.kind, errCause := cause, errTag := (encode op.instr).setWidth 8,
          erroff := s.idx, erriter := s.iter, err := true,
          responses := s.responses ++ [⟨cause.kind.resp, cause.code.setWidth 128⟩] }) ∧
    ((elementTests op s).find? (fun p => p.1) = none →
      ∃ d : Data, exec op.instr s = .next
        { s with
          idx := BitVec.ofNat 64 ((s.idx.toNat + 1) % 2 ^ 64), responses := s.responses ++ [⟨.ok, d⟩] })

/-- `60_exceptions.md` rule R165: while an error is latched the element commands and `NEXTITER` respond `(ABORTED, 0)` and
change no state, and the other six commands execute normally: apart from `RDREG`, which shows the latch, they respond
and write as they do with no error latched. -/
def Obligations.LatchedErrorRefusesTheRestOfTheCall : Prop :=
  ∀ s : State, s.err = true → ∀ i : Instr,
    (runsWhileLatched i = false → exec i s = .next { s with responses := s.responses ++ [⟨.aborted, 0⟩] }) ∧
    (runsWhileLatched i = true →
      ∃ (t : State) (r : Response), exec i s = .next t ∧ t.responses = s.responses ++ [r] ∧ r.resp ≠ .aborted ∧
        ((∀ n, i ≠ .rdreg n) → ∃ u : State, exec i { s with err := false } = .next u ∧
          u.responses = s.responses ++ [r] ∧ SameRegisters { t with err := false } { u with err := false }))

/-- `41_codec.md` rule R106: `CHK` or `DEC` of a value that decodes out of range responds `(CORRUPTION, RANGE)` and records
the element's exact offset and iteration. -/
def Obligations.CorruptionIsRecordedAtItsOffset : Prop :=
  ∀ s : State, ∀ i : Instr, i = .chk ∨ i = .dec → s.cfgok = true → s.err = false →
    s.din.toNat < 2 ^ s.wout.toNat →
    2 ^ s.win.toNat - 1 < s.din.toNat * s.ainv.toNat % 2 ^ s.wout.toNat →
    exec i s = .next
      { s with
        err := true, errKind := .corruption, errCause := .range, errTag := (encode i).setWidth 8,
        erroff := s.idx, erriter := s.iter, responses := s.responses ++ [⟨.corruption, 1⟩] }

/-- `41_codec.md` rule R107: the response of an element command depends only on the configuration, `OPD` and `din`, never
on the element's position. -/
def Obligations.ElementResponseIgnoresPosition : Prop :=
  ∀ s s' : State, ∀ op : ElementOp, SameConfig s s' → s.opd = s'.opd → s.din = s'.din → s.err = false → s'.err = false →
    ∃ (t t' : State) (r : Response), exec op.instr s = .next t ∧ exec op.instr s' = .next t' ∧
      t.responses = s.responses ++ [r] ∧ t'.responses = s'.responses ++ [r]

/-! ## Whole-machine rules -/

/-- `10_state.md` rule R36: which command writes which state, and when. `r` is the command's response. -/
def Obligations.OnlyTheNamedCommandsWriteEachRegister : Prop :=
  (∀ s t : State, ∀ i r, exec i s = .next t → t.responses = s.responses ++ [r] →
    (∀ win wout, i = .cfg win wout → (t.cfgok = true ↔ r.resp = .ok)) ∧
    ((∀ win wout, i ≠ .cfg win wout) → t.cfgok = s.cfgok) ∧
    (¬ (r.resp = .ok ∧ ∃ win wout, i = .cfg win wout) →
      t.win = s.win ∧ t.wout = s.wout ∧ t.a = s.a ∧ t.ainv = s.ainv) ∧
    t.opd = (if i = .setop then BitVec.ofNat 64 (s.din.toNat % 2 ^ 64) else s.opd) ∧
    t.idx = (if i = .start ∨ i = .nextiter ∧ r.resp = .ok then 0
      else if isElement i = true ∧ r.resp = .ok then s.idx + 1 else s.idx) ∧
    t.iter = (if i = .start then 0 else if i = .nextiter ∧ r.resp = .ok then s.iter + 1 else s.iter) ∧
    t.err = (if i = .start then false
      else if isElement i = true ∧ (r.resp = .corruption ∨ r.resp = .config) then true else s.err) ∧
    (i = .start → t.errKind = .none ∧ t.errCause = .none ∧ t.errTag = 0 ∧ t.erroff = 0 ∧ t.erriter = 0) ∧
    (isElement i = true → r.resp = .corruption ∨ r.resp = .config →
      t.errKind.resp = r.resp ∧ t.errCause.code.setWidth 128 = r.dout ∧ t.errTag = (encode i).setWidth 8 ∧
      t.erroff = s.idx ∧ t.erriter = s.iter) ∧
    (i ≠ .start → ¬ (isElement i = true ∧ (r.resp = .corruption ∨ r.resp = .config)) →
      t.errKind = s.errKind ∧ t.errCause = s.errCause ∧ t.errTag = s.errTag ∧ t.erroff = s.erroff ∧
      t.erriter = s.erriter) ∧
    (r.resp = .aborted ∨ i = .nop ∨ (∃ w, i = .inv w) ∨ (∃ n, i = .rdreg n) → SameRegisters t s)) ∧
  ∀ s t : State, ∀ c d rest reason, s.pending = .command c d :: rest → decode c = .error reason → step s = .next t →
    SameRegisters t s

/-- `60_exceptions.md` rule R164: an error of `INV` or `CFG` is returned in the response and is not latched; `INV` writes
nothing, and `CFG` clears `CFGOK`. -/
def Obligations.ErrorsOfInvAndCfgAreNotLatched : Prop :=
  ∀ s t : State, ∀ r, t.responses = s.responses ++ [r] → r.resp ≠ .ok →
    (∀ w, exec (.inv w) s = .next t → r.resp = .config ∧ t = { s with responses := s.responses ++ [r] }) ∧
    (∀ win wout, exec (.cfg win wout) s = .next t →
      r.resp = .config ∧ t = { s with cfgok := false, responses := s.responses ++ [r] })

/-- `10_state.md` rule R22 and `60_exceptions.md` rules R163, R168: while an error is latched, every step leaves the
latch, the record and the counters as they are, unless it executes `START` or a reset. -/
def Obligations.OnlyStartOrResetEndsALatchedError : Prop :=
  ∀ s t : State, s.err = true → step s = .next t →
    (t.err = true ∧ t.errKind = s.errKind ∧ t.errCause = s.errCause ∧ t.errTag = s.errTag ∧ t.erroff = s.erroff ∧
      t.erriter = s.erriter ∧ t.idx = s.idx ∧ t.iter = s.iter) ∨
    (∃ d rest, s.pending = .command (encode .start) d :: rest) ∨ ∃ rest, s.pending = .rst :: rest

/-- `10_state.md` rule R26: the configuration invariant holds in every reachable state: at reset, and kept by every
step from every state that meets it. -/
def Obligations.StepsKeepTheConfigurationInvariant : Prop :=
  (∀ inputs : List HostInput, ∀ s : State, s = { State.reset with pending := inputs } → ConfigInv s) ∧
  ∀ s t : State, ConfigInv s → step s = .next t → ConfigInv t

/-- `10_state.md` rule R34: the error record invariant holds in every reachable state: at reset, and kept by every
step from every state that meets it. -/
def Obligations.StepsKeepTheErrorRecordInvariant : Prop :=
  (∀ inputs : List HostInput, ∀ s : State, s = { State.reset with pending := inputs } → RecordInv s) ∧
  ∀ s t : State, RecordInv s → step s = .next t → RecordInv t

/-- Inferred from `60_exceptions.md` rules R156, R163 and R165 (log entry 14): a latched record's kind is its cause's, and
its offset and iteration stay equal to the counters. -/
def Obligations.StepsKeepTheRecordInAgreement : Prop :=
  ∀ s t : State, RecordAgrees s → step s = .next t → RecordAgrees t

/-- Inferred from `10_state.md` rules R23, R36 and R41 and `41_codec.md` rule R96 (log entry 14): every step keeps `WIN` at
most `WOUT` and `WOUT` at most 64, configured or not. -/
def Obligations.StepsKeepTheWidthsInRange : Prop :=
  ∀ s t : State, WidthInv s → step s = .next t → WidthInv t

/-! ## Laws of the code -/

/-- `41_codec.md` rule R95: a value below `M` is valid when it decodes to at most `DMAX`; `CHK` accepts exactly the valid
values, they are exactly the multiples `x × A` with `x ≤ DMAX`, and `dec(x × A) = x`. -/
def Obligations.ChkAcceptsExactlyTheCodeWords : Prop :=
  ∀ s : State, ConfigInv s → s.cfgok = true → s.err = false → s.din.toNat < 2 ^ s.wout.toNat →
    (s.din.toNat * s.ainv.toNat % 2 ^ s.wout.toNat ≤ 2 ^ s.win.toNat - 1 ↔
      ∃ (t : State) (d : Data), AnswersOk .chk s t d) ∧
    (s.din.toNat * s.ainv.toNat % 2 ^ s.wout.toNat ≤ 2 ^ s.win.toNat - 1 ↔
      ∃ x : Nat, x ≤ 2 ^ s.win.toNat - 1 ∧ s.din.toNat = x * s.a.toNat) ∧
    ∀ x : Nat, x ≤ 2 ^ s.win.toNat - 1 → x * s.a.toNat * s.ainv.toNat % 2 ^ s.wout.toNat = x

/-- `70_reset_and_hazards.md` rule R188: of the `2^WOUT` words exactly `2^WIN` are accepted by `CHK`. -/
def Obligations.AcceptedWordsAreCounted : Prop :=
  ∀ s : State, ConfigInv s → s.cfgok = true → s.err = false →
    ∃ accepted : Finset Nat, accepted.card = 2 ^ s.win.toNat ∧
      ∀ v : Nat, v ∈ accepted ↔
        v < 2 ^ s.wout.toNat ∧ ∃ (t : State) (d : Data), AnswersOk .chk { s with din := BitVec.ofNat 128 v } t d

/-- `41_codec.md` rule R105: `ENC ; x -> (OK, e)`, then `DEC ; e -> (OK, x)` and `CHK ; e -> (OK, 0)`. -/
def Obligations.DecodeOfEncodedValueIsTheValue : Prop :=
  ∀ s : State, ConfigInv s → s.cfgok = true → s.err = false → s.din.toNat ≤ 2 ^ s.win.toNat - 1 →
    ∃ (t : State) (e : Data), AnswersOk .enc s t e ∧
      (∃ t' : State, AnswersOk .dec { t with din := e } t' s.din) ∧
      ∃ t' : State, AnswersOk .chk { t with din := e } t' 0

/-- `42_arithmetic.md` rule R124: encode, operate, decode gives the operation on the raw values, for each operator when
the true result is in range (and the division exact). -/
def Obligations.ArithmeticCommutesWithDecoding : Prop :=
  ∀ s : State, ∀ x y : Nat, ConfigInv s → s.cfgok = true → s.err = false →
    s.din.toNat = x → s.opd.toNat = y → x ≤ 2 ^ s.win.toNat - 1 → y ≤ 2 ^ s.win.toNat - 1 →
    ∃ (t : State) (e : Data), AnswersOk .enc s t e ∧
      (x + y ≤ 2 ^ s.win.toNat - 1 → ∃ t1 d1 t2, AnswersOk .add { t with din := e } t1 d1 ∧
        AnswersOk .dec { t1 with din := d1 } t2 (BitVec.ofNat 128 (x + y))) ∧
      (y ≤ x → ∃ t1 d1 t2, AnswersOk .sub { t with din := e } t1 d1 ∧
        AnswersOk .dec { t1 with din := d1 } t2 (BitVec.ofNat 128 (x - y))) ∧
      (x * y ≤ 2 ^ s.win.toNat - 1 → ∃ t1 d1 t2, AnswersOk .mul { t with din := e } t1 d1 ∧
        AnswersOk .dec { t1 with din := d1 } t2 (BitVec.ofNat 128 (x * y))) ∧
      (1 ≤ y → x % y = 0 → ∃ t1 d1 t2, AnswersOk .div { t with din := e } t1 d1 ∧
        AnswersOk .dec { t1 with din := d1 } t2 (BitVec.ofNat 128 (x / y)))

/-- `70_reset_and_hazards.md` rule R189: the results of `ADD`, `SUB` and `MUL` decode to the operation modulo `M`; one of
`ADD` or `SUB` whose true value is out of range is returned with `OK` and caught by the next `CHK`; so is a product when
`2 × WIN ≤ WOUT`; otherwise a wrong product can pass. -/
def Obligations.OutOfRangeResultsAreCaughtLater : Prop :=
  (∀ s : State, ∀ x y : Nat, ConfigInv s → s.cfgok = true → s.err = false →
    s.din.toNat = x * s.a.toNat → s.opd.toNat = y → x ≤ 2 ^ s.win.toNat - 1 → y ≤ 2 ^ s.win.toNat - 1 →
    (∃ t d, AnswersOk .add s t d ∧ d.toNat * s.ainv.toNat % 2 ^ s.wout.toNat = (x + y) % 2 ^ s.wout.toNat) ∧
    (∃ t d, AnswersOk .sub s t d ∧
      ((d.toNat * s.ainv.toNat % 2 ^ s.wout.toNat : Nat) : Int) = ((x : Int) - y) % (2 : Int) ^ s.wout.toNat) ∧
    (∃ t d, AnswersOk .mul s t d ∧ d.toNat * s.ainv.toNat % 2 ^ s.wout.toNat = x * y % 2 ^ s.wout.toNat) ∧
    (2 ^ s.win.toNat - 1 < x + y → ∃ t d t', AnswersOk .add s t d ∧ exec .chk { t with din := d } = .next t' ∧
      t'.responses = t.responses ++ [⟨.corruption, 1⟩]) ∧
    (x < y → ∃ t d t', AnswersOk .sub s t d ∧ exec .chk { t with din := d } = .next t' ∧
      t'.responses = t.responses ++ [⟨.corruption, 1⟩]) ∧
    (2 ^ s.win.toNat - 1 < x * y → 2 * s.win.toNat ≤ s.wout.toNat →
      ∃ t d t', AnswersOk .mul s t d ∧ exec .chk { t with din := d } = .next t' ∧
        t'.responses = t.responses ++ [⟨.corruption, 1⟩])) ∧
  ∃ (s : State) (x y : Nat) (t : State) (d : Data) (t' : State) (d' : Data),
    ConfigInv s ∧ s.cfgok = true ∧ s.err = false ∧ s.din.toNat = x * s.a.toNat ∧ s.opd.toNat = y ∧
    x ≤ 2 ^ s.win.toNat - 1 ∧ y ≤ 2 ^ s.win.toNat - 1 ∧ 2 ^ s.win.toNat - 1 < x * y ∧
    AnswersOk .mul s t d ∧ AnswersOk .chk { t with din := d } t' d'

/-! ## Bulk operations -/

/-- `43_call_control.md` rule R144: the list-level meaning of `BULK.<op>` in a configured state, with and without a
failing element. -/
def Obligations.BulkOperationStopsAtTheFirstFailure : Prop :=
  ∀ s : State, ∀ op : ElementOp, ∀ vs : List Data, ConfigInv s → s.cfgok = true → s.pending = bulk op vs →
    (∀ rs : List Nat, List.Forall₂ (fun v r => elementResult op s v.toNat = .ok r) vs rs →
      ∃ t : State, core.run (vs.length + 1) s = Host.Outcome.next t ∧ t.pending = [] ∧
        t.responses = s.responses ++ ⟨.ok, 0⟩ :: rs.map (fun r => ⟨.ok, BitVec.ofNat 128 r⟩) ∧
        t.idx = BitVec.ofNat 64 vs.length ∧ t.iter = 0 ∧ t.err = false) ∧
    (∀ (pre post : List Data) (v : Data) (rs : List Nat) (cause : Cause), vs = pre ++ v :: post →
      List.Forall₂ (fun v r => elementResult op s v.toNat = .ok r) pre rs →
      elementResult op s v.toNat = .error cause →
      ∃ t : State, core.run (vs.length + 1) s = Host.Outcome.next t ∧ t.pending = [] ∧
        t.responses = s.responses ++ ⟨.ok, 0⟩ :: (rs.map (fun r => ⟨.ok, BitVec.ofNat 128 r⟩) ++
          ⟨cause.kind.resp, cause.code.setWidth 128⟩ :: List.replicate post.length ⟨.aborted, 0⟩) ∧
        t.idx = BitVec.ofNat 64 pre.length ∧ t.err = true ∧ t.errKind = cause.kind ∧ t.errCause = cause ∧
        t.errTag = (encode op.instr).setWidth 8 ∧ t.erroff = BitVec.ofNat 64 pre.length ∧ t.erriter = 0)

/-- `43_call_control.md` rule R147: `REPEAT.<op> k` gives the responses of each pass; if an element fails it fails in the
first pass, and every later command, `NEXTITER` included, is refused. -/
def Obligations.RepeatedPassesFailFastForTheWholeCall : Prop :=
  ∀ s : State, ∀ op : ElementOp, ∀ vs : List Data, ∀ k : Nat, 1 ≤ k → ConfigInv s →
    s.cfgok = true → s.pending = repeatPasses op k vs →
    (∀ rs : List Nat, List.Forall₂ (fun v r => elementResult op s v.toNat = .ok r) vs rs →
      ∃ t : State, core.run (repeatPasses op k vs).length s = Host.Outcome.next t ∧ t.pending = [] ∧
        t.responses = s.responses ++ (List.replicate k
          (⟨.ok, 0⟩ :: rs.map (fun r => (⟨.ok, BitVec.ofNat 128 r⟩ : Response)))).flatten ∧
        t.iter = BitVec.ofNat 32 (k - 1) ∧ t.idx = BitVec.ofNat 64 vs.length ∧ t.err = false) ∧
    (∀ (pre post : List Data) (v : Data) (rs : List Nat) (cause : Cause), vs = pre ++ v :: post →
      List.Forall₂ (fun v r => elementResult op s v.toNat = .ok r) pre rs →
      elementResult op s v.toNat = .error cause →
      ∃ t : State, core.run (repeatPasses op k vs).length s = Host.Outcome.next t ∧ t.pending = [] ∧
        t.responses = s.responses ++ ⟨.ok, 0⟩ :: (rs.map (fun r => ⟨.ok, BitVec.ofNat 128 r⟩) ++
          ⟨cause.kind.resp, cause.code.setWidth 128⟩ ::
            List.replicate (post.length + (k - 1) * (vs.length + 1)) ⟨.aborted, 0⟩) ∧
        t.idx = BitVec.ofNat 64 pre.length ∧ t.iter = 0 ∧ t.err = true ∧ t.erroff = BitVec.ofNat 64 pre.length ∧
        t.erriter = 0)

/-- `41_codec.md` rule R106: when the `i`-th element command of a pass is `CHK` or `DEC` of a value that decodes out of
range, and no earlier command latched an error, the response is `(CORRUPTION, RANGE)` and the record holds offset `i` and
the iteration. Other commands of the pass do not count. -/
def Obligations.CorruptionIsFlaggedAtItsExactOffset : Prop :=
  ∀ s t : State, ∀ cs : List (Instr × Data), ∀ i : Instr, ∀ v : Data, ∀ rest,
    i = .chk ∨ i = .dec → inOnePass cs = true → s.idx = 0 →
    s.pending = cs.map (fun p => issue p.1 p.2) ++ issue i v :: rest →
    core.run cs.length s = Host.Outcome.next t → t.cfgok = true → t.err = false →
    v.toNat < 2 ^ t.wout.toNat → 2 ^ t.win.toNat - 1 < v.toNat * t.ainv.toNat % 2 ^ t.wout.toNat →
    ∃ u : State, core.run (cs.length + 1) s = Host.Outcome.next u ∧
      u.responses = t.responses ++ [⟨.corruption, 1⟩] ∧ u.err = true ∧
      u.erroff = BitVec.ofNat 64 (cs.countP fun p => isElement p.1) ∧ u.erriter = s.iter
end

