-- ==== Sys2Proof/Laws/State.lean ====
section
/-! SUPPORT. What each state update of Machine/Ops.lean does to each field: one lemma per field per update. -/

namespace Sys2Proof.Machine

variable (s : State)

@[simp] theorem State.respond_cfgok (r : RespCode) (d : Data) : (s.respond r d).cfgok = s.cfgok := rfl
@[simp] theorem State.respond_err (r : RespCode) (d : Data) : (s.respond r d).err = s.err := rfl
@[simp] theorem State.respond_win (r : RespCode) (d : Data) : (s.respond r d).win = s.win := rfl
@[simp] theorem State.respond_wout (r : RespCode) (d : Data) : (s.respond r d).wout = s.wout := rfl
@[simp] theorem State.respond_a (r : RespCode) (d : Data) : (s.respond r d).a = s.a := rfl
@[simp] theorem State.respond_ainv (r : RespCode) (d : Data) : (s.respond r d).ainv = s.ainv := rfl
@[simp] theorem State.respond_opd (r : RespCode) (d : Data) : (s.respond r d).opd = s.opd := rfl
@[simp] theorem State.respond_idx (r : RespCode) (d : Data) : (s.respond r d).idx = s.idx := rfl
@[simp] theorem State.respond_iter (r : RespCode) (d : Data) : (s.respond r d).iter = s.iter := rfl
@[simp] theorem State.respond_errKind (r : RespCode) (d : Data) : (s.respond r d).errKind = s.errKind := rfl
@[simp] theorem State.respond_errCause (r : RespCode) (d : Data) : (s.respond r d).errCause = s.errCause := rfl
@[simp] theorem State.respond_errTag (r : RespCode) (d : Data) : (s.respond r d).errTag = s.errTag := rfl
@[simp] theorem State.respond_erroff (r : RespCode) (d : Data) : (s.respond r d).erroff = s.erroff := rfl
@[simp] theorem State.respond_erriter (r : RespCode) (d : Data) : (s.respond r d).erriter = s.erriter := rfl
@[simp] theorem State.respond_pending (r : RespCode) (d : Data) : (s.respond r d).pending = s.pending := rfl
@[simp] theorem State.respond_din (r : RespCode) (d : Data) : (s.respond r d).din = s.din := rfl
@[simp] theorem State.respond_responses (r : RespCode) (d : Data) : (s.respond r d).responses = s.responses ++ [⟨r, d⟩] := rfl

@[simp] theorem State.advance_cfgok : s.advance.cfgok = s.cfgok := rfl
@[simp] theorem State.advance_err : s.advance.err = s.err := rfl
@[simp] theorem State.advance_win : s.advance.win = s.win := rfl
@[simp] theorem State.advance_wout : s.advance.wout = s.wout := rfl
@[simp] theorem State.advance_a : s.advance.a = s.a := rfl
@[simp] theorem State.advance_ainv : s.advance.ainv = s.ainv := rfl
@[simp] theorem State.advance_opd : s.advance.opd = s.opd := rfl
@[simp] theorem State.advance_idx : s.advance.idx = s.idx + 1 := rfl
@[simp] theorem State.advance_iter : s.advance.iter = s.iter := rfl
@[simp] theorem State.advance_errKind : s.advance.errKind = s.errKind := rfl
@[simp] theorem State.advance_errCause : s.advance.errCause = s.errCause := rfl
@[simp] theorem State.advance_errTag : s.advance.errTag = s.errTag := rfl
@[simp] theorem State.advance_erroff : s.advance.erroff = s.erroff := rfl
@[simp] theorem State.advance_erriter : s.advance.erriter = s.erriter := rfl
@[simp] theorem State.advance_pending : s.advance.pending = s.pending := rfl
@[simp] theorem State.advance_din : s.advance.din = s.din := rfl
@[simp] theorem State.advance_responses : s.advance.responses = s.responses := rfl

@[simp] theorem State.loadOperand_cfgok : s.loadOperand.cfgok = s.cfgok := rfl
@[simp] theorem State.loadOperand_err : s.loadOperand.err = s.err := rfl
@[simp] theorem State.loadOperand_win : s.loadOperand.win = s.win := rfl
@[simp] theorem State.loadOperand_wout : s.loadOperand.wout = s.wout := rfl
@[simp] theorem State.loadOperand_a : s.loadOperand.a = s.a := rfl
@[simp] theorem State.loadOperand_ainv : s.loadOperand.ainv = s.ainv := rfl
@[simp] theorem State.loadOperand_opd : s.loadOperand.opd = s.din.setWidth 64 := rfl
@[simp] theorem State.loadOperand_idx : s.loadOperand.idx = s.idx := rfl
@[simp] theorem State.loadOperand_iter : s.loadOperand.iter = s.iter := rfl
@[simp] theorem State.loadOperand_errKind : s.loadOperand.errKind = s.errKind := rfl
@[simp] theorem State.loadOperand_errCause : s.loadOperand.errCause = s.errCause := rfl
@[simp] theorem State.loadOperand_errTag : s.loadOperand.errTag = s.errTag := rfl
@[simp] theorem State.loadOperand_erroff : s.loadOperand.erroff = s.erroff := rfl
@[simp] theorem State.loadOperand_erriter : s.loadOperand.erriter = s.erriter := rfl
@[simp] theorem State.loadOperand_pending : s.loadOperand.pending = s.pending := rfl
@[simp] theorem State.loadOperand_din : s.loadOperand.din = s.din := rfl
@[simp] theorem State.loadOperand_responses : s.loadOperand.responses = s.responses := rfl

@[simp] theorem State.install_cfgok (w o c v : Nat) : (s.install w o c v).cfgok = true := rfl
@[simp] theorem State.install_err (w o c v : Nat) : (s.install w o c v).err = s.err := rfl
@[simp] theorem State.install_win (w o c v : Nat) : (s.install w o c v).win = BitVec.ofNat 8 w := rfl
@[simp] theorem State.install_wout (w o c v : Nat) : (s.install w o c v).wout = BitVec.ofNat 8 o := rfl
@[simp] theorem State.install_a (w o c v : Nat) : (s.install w o c v).a = BitVec.ofNat 64 c := rfl
@[simp] theorem State.install_ainv (w o c v : Nat) : (s.install w o c v).ainv = BitVec.ofNat 64 v := rfl
@[simp] theorem State.install_opd (w o c v : Nat) : (s.install w o c v).opd = s.opd := rfl
@[simp] theorem State.install_idx (w o c v : Nat) : (s.install w o c v).idx = s.idx := rfl
@[simp] theorem State.install_iter (w o c v : Nat) : (s.install w o c v).iter = s.iter := rfl
@[simp] theorem State.install_errKind (w o c v : Nat) : (s.install w o c v).errKind = s.errKind := rfl
@[simp] theorem State.install_errCause (w o c v : Nat) : (s.install w o c v).errCause = s.errCause := rfl
@[simp] theorem State.install_errTag (w o c v : Nat) : (s.install w o c v).errTag = s.errTag := rfl
@[simp] theorem State.install_erroff (w o c v : Nat) : (s.install w o c v).erroff = s.erroff := rfl
@[simp] theorem State.install_erriter (w o c v : Nat) : (s.install w o c v).erriter = s.erriter := rfl
@[simp] theorem State.install_pending (w o c v : Nat) : (s.install w o c v).pending = s.pending := rfl
@[simp] theorem State.install_din (w o c v : Nat) : (s.install w o c v).din = s.din := rfl
@[simp] theorem State.install_responses (w o c v : Nat) : (s.install w o c v).responses = s.responses := rfl

@[simp] theorem State.unconfigure_cfgok : s.unconfigure.cfgok = false := rfl
@[simp] theorem State.unconfigure_err : s.unconfigure.err = s.err := rfl
@[simp] theorem State.unconfigure_win : s.unconfigure.win = s.win := rfl
@[simp] theorem State.unconfigure_wout : s.unconfigure.wout = s.wout := rfl
@[simp] theorem State.unconfigure_a : s.unconfigure.a = s.a := rfl
@[simp] theorem State.unconfigure_ainv : s.unconfigure.ainv = s.ainv := rfl
@[simp] theorem State.unconfigure_opd : s.unconfigure.opd = s.opd := rfl
@[simp] theorem State.unconfigure_idx : s.unconfigure.idx = s.idx := rfl
@[simp] theorem State.unconfigure_iter : s.unconfigure.iter = s.iter := rfl
@[simp] theorem State.unconfigure_errKind : s.unconfigure.errKind = s.errKind := rfl
@[simp] theorem State.unconfigure_errCause : s.unconfigure.errCause = s.errCause := rfl
@[simp] theorem State.unconfigure_errTag : s.unconfigure.errTag = s.errTag := rfl
@[simp] theorem State.unconfigure_erroff : s.unconfigure.erroff = s.erroff := rfl
@[simp] theorem State.unconfigure_erriter : s.unconfigure.erriter = s.erriter := rfl
@[simp] theorem State.unconfigure_pending : s.unconfigure.pending = s.pending := rfl
@[simp] theorem State.unconfigure_din : s.unconfigure.din = s.din := rfl
@[simp] theorem State.unconfigure_responses : s.unconfigure.responses = s.responses := rfl

@[simp] theorem State.latch_cfgok (g : Byte) (k : ErrKind) (c : Cause) : (s.latch g k c).cfgok = s.cfgok := rfl
@[simp] theorem State.latch_err (g : Byte) (k : ErrKind) (c : Cause) : (s.latch g k c).err = true := rfl
@[simp] theorem State.latch_win (g : Byte) (k : ErrKind) (c : Cause) : (s.latch g k c).win = s.win := rfl
@[simp] theorem State.latch_wout (g : Byte) (k : ErrKind) (c : Cause) : (s.latch g k c).wout = s.wout := rfl
@[simp] theorem State.latch_a (g : Byte) (k : ErrKind) (c : Cause) : (s.latch g k c).a = s.a := rfl
@[simp] theorem State.latch_ainv (g : Byte) (k : ErrKind) (c : Cause) : (s.latch g k c).ainv = s.ainv := rfl
@[simp] theorem State.latch_opd (g : Byte) (k : ErrKind) (c : Cause) : (s.latch g k c).opd = s.opd := rfl
@[simp] theorem State.latch_idx (g : Byte) (k : ErrKind) (c : Cause) : (s.latch g k c).idx = s.idx := rfl
@[simp] theorem State.latch_iter (g : Byte) (k : ErrKind) (c : Cause) : (s.latch g k c).iter = s.iter := rfl
@[simp] theorem State.latch_errKind (g : Byte) (k : ErrKind) (c : Cause) : (s.latch g k c).errKind = k := rfl
@[simp] theorem State.latch_errCause (g : Byte) (k : ErrKind) (c : Cause) : (s.latch g k c).errCause = c := rfl
@[simp] theorem State.latch_errTag (g : Byte) (k : ErrKind) (c : Cause) : (s.latch g k c).errTag = g := rfl
@[simp] theorem State.latch_erroff (g : Byte) (k : ErrKind) (c : Cause) : (s.latch g k c).erroff = s.idx := rfl
@[simp] theorem State.latch_erriter (g : Byte) (k : ErrKind) (c : Cause) : (s.latch g k c).erriter = s.iter := rfl
@[simp] theorem State.latch_pending (g : Byte) (k : ErrKind) (c : Cause) : (s.latch g k c).pending = s.pending := rfl
@[simp] theorem State.latch_din (g : Byte) (k : ErrKind) (c : Cause) : (s.latch g k c).din = s.din := rfl
@[simp] theorem State.latch_responses (g : Byte) (k : ErrKind) (c : Cause) : (s.latch g k c).responses = s.responses := rfl

@[simp] theorem State.openCall_cfgok : s.openCall.cfgok = s.cfgok := rfl
@[simp] theorem State.openCall_err : s.openCall.err = false := rfl
@[simp] theorem State.openCall_win : s.openCall.win = s.win := rfl
@[simp] theorem State.openCall_wout : s.openCall.wout = s.wout := rfl
@[simp] theorem State.openCall_a : s.openCall.a = s.a := rfl
@[simp] theorem State.openCall_ainv : s.openCall.ainv = s.ainv := rfl
@[simp] theorem State.openCall_opd : s.openCall.opd = s.opd := rfl
@[simp] theorem State.openCall_idx : s.openCall.idx = 0 := rfl
@[simp] theorem State.openCall_iter : s.openCall.iter = 0 := rfl
@[simp] theorem State.openCall_errKind : s.openCall.errKind = .none := rfl
@[simp] theorem State.openCall_errCause : s.openCall.errCause = .none := rfl
@[simp] theorem State.openCall_errTag : s.openCall.errTag = 0 := rfl
@[simp] theorem State.openCall_erroff : s.openCall.erroff = 0 := rfl
@[simp] theorem State.openCall_erriter : s.openCall.erriter = 0 := rfl
@[simp] theorem State.openCall_pending : s.openCall.pending = s.pending := rfl
@[simp] theorem State.openCall_din : s.openCall.din = s.din := rfl
@[simp] theorem State.openCall_responses : s.openCall.responses = s.responses := rfl

@[simp] theorem State.openIteration_cfgok : s.openIteration.cfgok = s.cfgok := rfl
@[simp] theorem State.openIteration_err : s.openIteration.err = s.err := rfl
@[simp] theorem State.openIteration_win : s.openIteration.win = s.win := rfl
@[simp] theorem State.openIteration_wout : s.openIteration.wout = s.wout := rfl
@[simp] theorem State.openIteration_a : s.openIteration.a = s.a := rfl
@[simp] theorem State.openIteration_ainv : s.openIteration.ainv = s.ainv := rfl
@[simp] theorem State.openIteration_opd : s.openIteration.opd = s.opd := rfl
@[simp] theorem State.openIteration_idx : s.openIteration.idx = 0 := rfl
@[simp] theorem State.openIteration_iter : s.openIteration.iter = s.iter + 1 := rfl
@[simp] theorem State.openIteration_errKind : s.openIteration.errKind = s.errKind := rfl
@[simp] theorem State.openIteration_errCause : s.openIteration.errCause = s.errCause := rfl
@[simp] theorem State.openIteration_errTag : s.openIteration.errTag = s.errTag := rfl
@[simp] theorem State.openIteration_erroff : s.openIteration.erroff = s.erroff := rfl
@[simp] theorem State.openIteration_erriter : s.openIteration.erriter = s.erriter := rfl
@[simp] theorem State.openIteration_pending : s.openIteration.pending = s.pending := rfl
@[simp] theorem State.openIteration_din : s.openIteration.din = s.din := rfl
@[simp] theorem State.openIteration_responses : s.openIteration.responses = s.responses := rfl

@[simp] theorem State.accept_cfgok (d : Data) (l : List HostInput) : (s.accept d l).cfgok = s.cfgok := rfl
@[simp] theorem State.accept_err (d : Data) (l : List HostInput) : (s.accept d l).err = s.err := rfl
@[simp] theorem State.accept_win (d : Data) (l : List HostInput) : (s.accept d l).win = s.win := rfl
@[simp] theorem State.accept_wout (d : Data) (l : List HostInput) : (s.accept d l).wout = s.wout := rfl
@[simp] theorem State.accept_a (d : Data) (l : List HostInput) : (s.accept d l).a = s.a := rfl
@[simp] theorem State.accept_ainv (d : Data) (l : List HostInput) : (s.accept d l).ainv = s.ainv := rfl
@[simp] theorem State.accept_opd (d : Data) (l : List HostInput) : (s.accept d l).opd = s.opd := rfl
@[simp] theorem State.accept_idx (d : Data) (l : List HostInput) : (s.accept d l).idx = s.idx := rfl
@[simp] theorem State.accept_iter (d : Data) (l : List HostInput) : (s.accept d l).iter = s.iter := rfl
@[simp] theorem State.accept_errKind (d : Data) (l : List HostInput) : (s.accept d l).errKind = s.errKind := rfl
@[simp] theorem State.accept_errCause (d : Data) (l : List HostInput) : (s.accept d l).errCause = s.errCause := rfl
@[simp] theorem State.accept_errTag (d : Data) (l : List HostInput) : (s.accept d l).errTag = s.errTag := rfl
@[simp] theorem State.accept_erroff (d : Data) (l : List HostInput) : (s.accept d l).erroff = s.erroff := rfl
@[simp] theorem State.accept_erriter (d : Data) (l : List HostInput) : (s.accept d l).erriter = s.erriter := rfl
@[simp] theorem State.accept_pending (d : Data) (l : List HostInput) : (s.accept d l).pending = l := rfl
@[simp] theorem State.accept_din (d : Data) (l : List HostInput) : (s.accept d l).din = d := rfl
@[simp] theorem State.accept_responses (d : Data) (l : List HostInput) : (s.accept d l).responses = s.responses := rfl

@[simp] theorem State.applyReset_cfgok (l : List HostInput) : (s.applyReset l).cfgok = false := rfl
@[simp] theorem State.applyReset_err (l : List HostInput) : (s.applyReset l).err = false := rfl
@[simp] theorem State.applyReset_win (l : List HostInput) : (s.applyReset l).win = 0 := rfl
@[simp] theorem State.applyReset_wout (l : List HostInput) : (s.applyReset l).wout = 0 := rfl
@[simp] theorem State.applyReset_a (l : List HostInput) : (s.applyReset l).a = 0 := rfl
@[simp] theorem State.applyReset_ainv (l : List HostInput) : (s.applyReset l).ainv = 0 := rfl
@[simp] theorem State.applyReset_opd (l : List HostInput) : (s.applyReset l).opd = 0 := rfl
@[simp] theorem State.applyReset_idx (l : List HostInput) : (s.applyReset l).idx = 0 := rfl
@[simp] theorem State.applyReset_iter (l : List HostInput) : (s.applyReset l).iter = 0 := rfl
@[simp] theorem State.applyReset_errKind (l : List HostInput) : (s.applyReset l).errKind = .none := rfl
@[simp] theorem State.applyReset_errCause (l : List HostInput) : (s.applyReset l).errCause = .none := rfl
@[simp] theorem State.applyReset_errTag (l : List HostInput) : (s.applyReset l).errTag = 0 := rfl
@[simp] theorem State.applyReset_erroff (l : List HostInput) : (s.applyReset l).erroff = 0 := rfl
@[simp] theorem State.applyReset_erriter (l : List HostInput) : (s.applyReset l).erriter = 0 := rfl
@[simp] theorem State.applyReset_pending (l : List HostInput) : (s.applyReset l).pending = l := rfl
@[simp] theorem State.applyReset_din (l : List HostInput) : (s.applyReset l).din = 0 := rfl
@[simp] theorem State.applyReset_responses (l : List HostInput) : (s.applyReset l).responses = s.responses := rfl

end Sys2Proof.Machine
end

