-- ==== Sys2Proof/Laws/Ops.lean ====
section
/-! SUPPORT. What each shared operation and each command can do, said once: `exec_effect` is the inversion lemma every
later proof about `exec` cites. -/

namespace Sys2Proof.Machine

/-! ## The element command's prologue and epilogue (`41_codec.md` rule R98) -/

theorem elementCommand_latched {tag : Byte} {result : Except Cause Nat} {s : State} (h : s.err = true) :
    elementCommand tag result s = .next (s.respond .aborted 0) := by
  simp [elementCommand, h, refuseAborted]

theorem elementCommand_unconfigured {tag : Byte} {result : Except Cause Nat} {s : State} (h : s.err = false)
    (hc : s.cfgok = false) :
    elementCommand tag result s =
      .next ((s.latch tag .config .notConfigured).respond .config (Cause.notConfigured.code.setWidth 128)) := by
  simp [elementCommand, h, hc, raiseError, errorEntry, Cause.kind, ErrKind.resp]

theorem elementCommand_error {tag : Byte} {s : State} {c : Cause} (h : s.err = false) (hc : s.cfgok = true) :
    elementCommand tag (.error c) s =
      .next ((s.latch tag c.kind c).respond c.kind.resp (c.code.setWidth 128)) := by
  simp [elementCommand, h, hc, raiseError, errorEntry]

theorem elementCommand_ok {tag : Byte} {s : State} {d : Nat} (h : s.err = false) (hc : s.cfgok = true) :
    elementCommand tag (.ok d) s = .next (s.advance.respond .ok (BitVec.ofNat 128 d)) := by
  simp [elementCommand, h, hc, complete]

/-- Every element command is the common prologue and epilogue around its own element function. -/
theorem exec_elementOp (op : ElementOp) (s : State) :
    exec op.instr s = elementCommand (opcode op.instr) (elementResult op s (dataOperand s)) s := by
  cases op <;> rfl

/-! ## Element functions -/

/-- The deciding cause is one of the tests' own. -/
theorem mem_of_firstFault {l : List (Option Cause)} {c : Cause} (h : firstFault l = some c) : some c ∈ l := by
  induction l with
  | nil => simp [firstFault] at h
  | cons x l ih =>
    cases x with
    | none => exact List.mem_cons_of_mem _ (ih h)
    | some d =>
      rw [firstFault] at h
      exact h ▸ List.mem_cons_self

theorem rawWidthFault_ne (s : State) (v : Nat) : rawWidthFault s v ≠ some .none := by
  unfold rawWidthFault; split_ifs <;> decide

theorem encodedWidthFault_ne (s : State) (v : Nat) : encodedWidthFault s v ≠ some .none := by
  unfold encodedWidthFault; split_ifs <;> decide

theorem rangeFault_ne (s : State) (v : Nat) : rangeFault s v ≠ some .none := by
  unfold rangeFault; split_ifs <;> decide

theorem operandFault_ne (s : State) (isDiv : Bool) : operandFault s isDiv ≠ some .none := by
  unfold operandFault; split_ifs <;> decide

theorem quotient_ne (s : State) (v : Nat) : quotient s v ≠ .error .none := by
  unfold quotient; split_ifs <;> simp

/-- The lane tests of `CHK` and `DEC` never name the cause `NONE`. -/
theorem laneFault_ne (s : State) (v : Nat) : firstFault [encodedWidthFault s v, rangeFault s v] ≠ some .none := by
  intro h
  have := mem_of_firstFault h
  simp only [List.mem_cons, List.not_mem_nil, or_false] at this
  rcases this with h | h
  · exact encodedWidthFault_ne s v h.symm
  · exact rangeFault_ne s v h.symm

/-- The tests of the arithmetic commands never name the cause `NONE`. -/
theorem arithElement_ne {isDiv : Bool} {s : State} {v : Nat} {result : Except Cause Nat} (hr : result ≠ .error .none) :
    arithElement isDiv s v result ≠ .error .none := by
  intro h
  unfold arithElement at h
  split at h
  · next c hc =>
    injection h with h
    have := mem_of_firstFault (h ▸ hc)
    simp only [List.mem_cons, List.not_mem_nil, or_false] at this
    rcases this with h | h | h
    · exact encodedWidthFault_ne s v h.symm
    · exact operandFault_ne s isDiv h.symm
    · exact rangeFault_ne s v h.symm
  · exact hr h

/-- A test that hits names a cause: `NONE` is never raised. -/
theorem elementResult_error_ne_none {op : ElementOp} {s : State} {v : Nat} {c : Cause}
    (h : elementResult op s v = .error c) : c ≠ .none := by
  rintro rfl
  cases op with
  | enc =>
    simp only [elementResult, encElement] at h
    split at h
    · next hc => injection h with h; exact rawWidthFault_ne s v (h ▸ hc)
    · cases h
  | chk =>
    simp only [elementResult, chkElement] at h
    split at h
    · next hc => injection h with h; exact laneFault_ne s v (h ▸ hc)
    · cases h
  | dec =>
    simp only [elementResult, decElement] at h
    split at h
    · next hc => injection h with h; exact laneFault_ne s v (h ▸ hc)
    · cases h
  | add => exact arithElement_ne (by simp) h
  | sub => exact arithElement_ne (by simp) h
  | mul => exact arithElement_ne (by simp) h
  | div => exact arithElement_ne (quotient_ne s v) h

/-- An element function reads the configuration and `OPD` alone (`41_codec.md` rule R107). -/
theorem elementResult_congr {s s' : State} (h : SameConfig s s') (ho : s.opd = s'.opd) (op : ElementOp) (v : Nat) :
    elementResult op s v = elementResult op s' v := by
  cases s
  cases s'
  obtain ⟨-, rfl, rfl, rfl, rfl⟩ := h
  cases ho
  cases op <;> rfl

/-! ## What a command can do -/

/-- Every way a command can end: the state it leaves before its response, and the response. -/
inductive Effect (s : State) : Instr → State → Response → Prop
  | nop : Effect s .nop s ⟨.ok, 0⟩
  | inv (w : Nat) (hw : 1 ≤ w ∧ w ≤ 127) (ho : dataOperand s % 2 = 1) :
    Effect s (.inv w) s ⟨.ok, BitVec.ofNat 128 (modinv (dataOperand s) w)⟩
  | invRejected (w : Nat) (c : Cause) (hc : c = .unsupportedWidth ∨ c = .evenA) :
    Effect s (.inv w) s ⟨.config, c.code.setWidth 128⟩
  | cfg (win wout : Nat) (h : configFault win wout (dataOperand s) = none) :
    Effect s (.cfg win wout) (s.install win wout (dataOperand s) (modinv (dataOperand s) wout))
      ⟨.ok, BitVec.ofNat 128 (modinv (dataOperand s) wout)⟩
  | cfgRejected (win wout : Nat) (c : Cause) (h : configFault win wout (dataOperand s) = some c) :
    Effect s (.cfg win wout) s.unconfigure ⟨.config, c.code.setWidth 128⟩
  | setop : Effect s .setop s.loadOperand ⟨.ok, 0⟩
  | start : Effect s .start s.openCall ⟨.ok, 0⟩
  | nextiter (h : s.err = false) : Effect s .nextiter s.openIteration ⟨.ok, 0⟩
  | rdreg (r : Nat) : Effect s (.rdreg r) s ⟨.ok, readRegister s r⟩
  | refused (i : Instr) (h : s.err = true) (hi : runsWhileLatched i = false) : Effect s i s ⟨.aborted, 0⟩
  | element (op : ElementOp) (d : Nat) (h : s.err = false) (hc : s.cfgok = true)
    (hr : elementResult op s (dataOperand s) = .ok d) :
    Effect s op.instr s.advance ⟨.ok, BitVec.ofNat 128 d⟩
  | raised (op : ElementOp) (c : Cause) (h : s.err = false) (hc : c ≠ .none) :
    Effect s op.instr (s.latch (opcode op.instr) c.kind c) ⟨c.kind.resp, c.code.setWidth 128⟩

/-- An element command ends in one of the ways of `Effect`. -/
theorem exec_elementOp_effect (op : ElementOp) (s : State) :
    ∃ u r, exec op.instr s = .next (u.respond r.resp r.dout) ∧ Effect s op.instr u r := by
  rw [exec_elementOp]
  cases he : s.err with
  | true => exact ⟨s, ⟨.aborted, 0⟩, elementCommand_latched he, .refused _ he (by cases op <;> rfl)⟩
  | false =>
    cases hc : s.cfgok with
    | false => exact ⟨_, ⟨.config, _⟩, elementCommand_unconfigured he hc, .raised op .notConfigured he (by decide)⟩
    | true =>
      cases hr : elementResult op s (dataOperand s) with
      | error c => exact ⟨_, ⟨_, _⟩, elementCommand_error he hc, .raised op c he (elementResult_error_ne_none hr)⟩
      | ok d => exact ⟨_, ⟨_, _⟩, elementCommand_ok he hc, .element op d he hc hr⟩

/-- The lowest bit of a number, as the tests of `INV` and `CFG` read it. -/
theorem bits_zero_zero (v : Nat) : bits v 0 0 = v % 2 := by simp [bits]

/-- `INV` ends in one of the ways of `Effect` (`40_solver.md` rule R87). -/
theorem execInv_effect (w : Nat) (s : State) :
    ∃ u r, execInv w s = .next (u.respond r.resp r.dout) ∧ Effect s (.inv w) u r := by
  unfold execInv
  rw [bits_zero_zero]
  split_ifs with h1 h2
  · exact ⟨s, ⟨.config, _⟩, rfl, .invRejected w .unsupportedWidth (.inl rfl)⟩
  · exact ⟨s, ⟨.config, _⟩, rfl, .invRejected w .evenA (.inr rfl)⟩
  · refine ⟨s, ⟨.ok, _⟩, rfl, .inv w ?_ (by omega)⟩
    simp only [Config.wmaxSolver] at h1
    omega

/-- `CFG` ends in one of the ways of `Effect` (`41_codec.md` rules R96, R97). -/
theorem execCfg_effect (win wout : Nat) (s : State) :
    ∃ u r, execCfg win wout s = .next (u.respond r.resp r.dout) ∧ Effect s (.cfg win wout) u r := by
  unfold execCfg
  split
  · next c h => exact ⟨_, ⟨.config, _⟩, rfl, .cfgRejected win wout c h⟩
  · next h => exact ⟨_, ⟨.ok, _⟩, rfl, .cfg win wout h⟩

/-- Every command answers, in every state, and ends in one of the ways of `Effect` (`00_scope.md` rule R15). -/
theorem exec_effect (i : Instr) (s : State) :
    ∃ u r, exec i s = .next (u.respond r.resp r.dout) ∧ Effect s i u r := by
  cases i with
  | nop => exact ⟨s, ⟨.ok, 0⟩, rfl, .nop⟩
  | inv w => exact execInv_effect w s
  | cfg win wout => exact execCfg_effect win wout s
  | setop => exact ⟨_, ⟨.ok, 0⟩, rfl, .setop⟩
  | start => exact ⟨_, ⟨.ok, 0⟩, rfl, .start⟩
  | nextiter =>
    cases he : s.err with
    | true => exact ⟨s, ⟨.aborted, 0⟩, by simp [exec, execNextiter, he, refuseAborted], .refused _ he rfl⟩
    | false => exact ⟨_, ⟨.ok, 0⟩, by simp [exec, execNextiter, he, complete], .nextiter he⟩
  | rdreg r => exact ⟨s, ⟨.ok, _⟩, rfl, .rdreg r⟩
  | enc => exact exec_elementOp_effect .enc s
  | chk => exact exec_elementOp_effect .chk s
  | dec => exact exec_elementOp_effect .dec s
  | add => exact exec_elementOp_effect .add s
  | sub => exact exec_elementOp_effect .sub s
  | mul => exact exec_elementOp_effect .mul s
  | div => exact exec_elementOp_effect .div s

/-- The same, from a next state that is given. -/
theorem exec_next {i : Instr} {s t : State} (h : exec i s = .next t) :
    ∃ u r, t = u.respond r.resp r.dout ∧ Effect s i u r := by
  obtain ⟨u, r, hu, he⟩ := exec_effect i s
  exact ⟨u, r, by rw [h] at hu; injection hu, he⟩

/-- What the checks of `CFG` establish when none fails (`41_codec.md` rule R96). -/
theorem configFault_eq_none {win wout d : Nat} :
    configFault win wout d = none ↔
      (1 ≤ wout ∧ wout ≤ 64) ∧ (1 ≤ win ∧ win ≤ wout) ∧ d % 2 = 1 ∧ d ≠ 1 ∧ (2 ^ win - 1) * d ≤ 2 ^ wout - 1 := by
  have hmax : Config.wmaxCodec = 64 := rfl
  unfold configFault
  rw [bits_zero_zero]
  split_ifs <;> simp only [false_iff, true_iff] <;> omega

end Sys2Proof.Machine
end

