-- ==== Sys2Proof/Laws/Solver.lean ====
section
/-! SUPPORT. The solver's function meets `40_solver.md` rule R86: for odd `a` and `w ≥ 1` it is the one natural number
below `2^w` whose product with `a` is 1 modulo `2^w`. The loop invariant is the one of rule R88. -/

namespace Sys2Proof.Machine

/-- Two passes more than halve a remainder: the second remainder of a pass pair. -/
theorem two_mul_mod_lt {r r1 : Nat} (h : 0 < r1) (hle : r1 ≤ r) : 2 * (r % r1) < r := by
  have h1 := Nat.mod_lt r h
  have h2 := Nat.div_add_mod r r1
  have h3 : 1 ≤ r / r1 := (Nat.one_le_div_iff h).mpr hle
  nlinarith

/-- The remainder of a pass, as the loop writes it. -/
theorem sub_div_mul_eq_mod (p r : Nat) : p - p / r * r = p % r := by
  have := Nat.div_add_mod p r
  have h : p / r * r = r * (p / r) := Nat.mul_comm _ _
  omega

/-- One pass keeps the congruence of the remainder (`40_solver.md` rule R88, loop invariant). -/
theorem euclid_pass_congr {a m p r : Nat} {sp s : Int} (hp : (p : Int) ≡ sp * a [ZMOD m])
    (hr : (r : Int) ≡ s * a [ZMOD m]) :
    ((p % r : Nat) : Int) ≡ (sp - (p / r : Nat) * s) * a [ZMOD m] := by
  have e : ((p % r : Nat) : Int) = (p : Int) - (p / r : Nat) * r := by
    have := Nat.div_add_mod p r
    push_cast
    rw [Int.emod_def]
    ring
  rw [e, sub_mul, mul_assoc]
  exact hp.sub (hr.mul_left _)

/-- From coprime remainders that meet the loop invariant, the loop ends with the inverse, given two passes for each
bit of `r`. -/
theorem euclid_spec (a m : Nat) : ∀ (k passes p r : Nat) (sp s : Int), r < 2 ^ k → 2 * k ≤ passes → Nat.gcd p r = 1 →
    (p : Int) ≡ sp * a [ZMOD m] → (r : Int) ≡ s * a [ZMOD m] →
    (1 : Int) ≡ euclid passes p r sp s * a [ZMOD m] := by
  have done : ∀ passes p r (sp s : Int), r = 0 → Nat.gcd p r = 1 → (p : Int) ≡ sp * a [ZMOD m] →
      (1 : Int) ≡ euclid passes p r sp s * a [ZMOD m] := by
    rintro passes p r sp s rfl hg hp
    have h1 : p = 1 := by simpa using hg
    subst h1
    cases passes <;> simpa [euclid] using hp
  intro k
  induction k with
  | zero =>
    intro passes p r sp s hr _ hg hp _
    exact done passes p r sp s (by simpa using hr) hg hp
  | succ k ih =>
    intro passes p r sp s hr hf hg hp hs
    by_cases h0 : r = 0
    · exact done passes p r sp s h0 hg hp
    obtain ⟨n, rfl⟩ : ∃ n, passes = n + 2 := ⟨passes - 2, by omega⟩
    have hg1 : Nat.gcd r (p % r) = 1 := by rw [← hg, Nat.gcd_comm, ← Nat.gcd_rec, Nat.gcd_comm]
    have hc1 := euclid_pass_congr hp hs
    rw [euclid, if_neg h0, sub_div_mul_eq_mod]
    by_cases h1 : p % r = 0
    · exact done _ _ _ _ _ h1 hg1 hs
    have hlt := Nat.mod_lt p (Nat.pos_of_ne_zero h0)
    have hg2 : Nat.gcd (p % r) (r % (p % r)) = 1 := by rw [← hg1, Nat.gcd_comm, ← Nat.gcd_rec, Nat.gcd_comm]
    rw [euclid, if_neg h1, sub_div_mul_eq_mod]
    have hhalf := two_mul_mod_lt (Nat.pos_of_ne_zero h1) hlt.le
    exact ih n _ _ _ _ (by omega) (by omega) hg2 hc1 (euclid_pass_congr hs hc1)

/-- An odd number is coprime to a power of two. -/
theorem gcd_odd_two_pow {a : Nat} (ha : a % 2 = 1) (w : Nat) : Nat.gcd a (2 ^ w) = 1 :=
  Nat.Coprime.pow_right w (Nat.coprime_two_right.mpr (Nat.odd_iff.mpr ha))

/-- `modinv(a, w)` is below `2^w` (`40_solver.md` rule R86). -/
theorem modinv_lt (a w : Nat) : modinv a w < 2 ^ w := by
  have hpos : (0 : Int) < (2 ^ w : Nat) := by positivity
  have h1 := Int.emod_nonneg (euclid (2 * w + 2) a (2 ^ w) 1 0) hpos.ne'
  have h2 := Int.emod_lt_of_pos (euclid (2 * w + 2) a (2 ^ w) 1 0) hpos
  unfold modinv
  omega

/-- `a × modinv(a, w)` is 1 modulo `2^w` (`40_solver.md` rules R86, R90). -/
theorem modinv_mul {a w : Nat} (ha : a % 2 = 1) (hw : 1 ≤ w) : a * modinv a w % 2 ^ w = 1 := by
  have hpos : (0 : Int) < (2 ^ w : Nat) := by positivity
  have hlt : 1 < 2 ^ w := Nat.one_lt_two_pow (by omega)
  have key : (1 : Int) ≡ euclid (2 * w + 2) a (2 ^ w) 1 0 * a [ZMOD (2 ^ w : Nat)] :=
    euclid_spec a (2 ^ w) (w + 1) _ _ _ _ _ (Nat.pow_lt_pow_right (by omega) (by omega)) (by omega)
      (gcd_odd_two_pow ha w) (by simp) (by simp [Int.ModEq])
  have hcast : (modinv a w : Int) = euclid (2 * w + 2) a (2 ^ w) 1 0 % (2 ^ w : Nat) :=
    Int.toNat_of_nonneg (Int.emod_nonneg _ hpos.ne')
  have hmul : ((a * modinv a w % 2 ^ w : Nat) : Int) = 1 := by
    rw [Int.natCast_mod, Int.natCast_mul, hcast]
    have h2 : (1 : Int) % (2 ^ w : Nat) = 1 := Int.emod_eq_of_lt (by omega) (by exact_mod_cast hlt)
    have h3 := ((Int.mod_modEq (euclid (2 * w + 2) a (2 ^ w) 1 0) (2 ^ w : Nat)).mul_right (a : Int)).trans key.symm
    rw [mul_comm, h3, h2]
  exact_mod_cast hmul

/-- The inverse is unique below `2^w` (`40_solver.md` rule R86). -/
theorem eq_modinv {a w x : Nat} (ha : a % 2 = 1) (hw : 1 ≤ w) (hx : x < 2 ^ w) (h : a * x % 2 ^ w = 1) :
    x = modinv a w := by
  have hm : a * x ≡ a * modinv a w [MOD 2 ^ w] := by
    rw [Nat.ModEq, h, modinv_mul ha hw]
  have := Nat.ModEq.cancel_left_of_coprime (by rw [Nat.gcd_comm]; exact gcd_odd_two_pow ha w) hm
  rw [Nat.ModEq, Nat.mod_eq_of_lt hx, Nat.mod_eq_of_lt (modinv_lt a w)] at this
  exact this

end Sys2Proof.Machine
end

