-- ==== Sys2Proof/Laws/Codec.lean ====
section
/-! SUPPORT. The arithmetic of a legal configuration (`10_state.md` rule R26): the encoder does not overflow, decoding
undoes it, and decoding is multiplicative modulo `M`. -/

namespace Sys2Proof.Machine

variable {s : State}

theorem modulus_pos (s : State) : 0 < modulus s := by unfold modulus; positivity

theorem decodedValue_lt (s : State) (v : Nat) : decodedValue s v < modulus s := Nat.mod_lt _ (modulus_pos s)

/-- `M` leaves room for twice `2^WIN` (`10_state.md` rule R26 (e)). -/
theorem two_dMax_lt (hi : ConfigInv s) (hc : s.cfgok = true) : 2 * (dMax s + 1) ≤ modulus s := by
  have h := (hi hc).2.2.2.2
  have hp : 1 ≤ 2 ^ s.win.toNat := Nat.one_le_two_pow
  have : 2 ^ (s.win.toNat + 1) ≤ 2 ^ s.wout.toNat := Nat.pow_le_pow_right (by omega) h
  rw [pow_succ] at this
  unfold dMax modulus
  omega

theorem dMax_lt (hi : ConfigInv s) (hc : s.cfgok = true) : dMax s < modulus s := by
  have := two_dMax_lt hi hc
  omega

/-- The encoder never wraps for a legal raw value (`41_codec.md` rule R101). -/
theorem encodedValue_lt (hi : ConfigInv s) (hc : s.cfgok = true) {x : Nat} (hx : x ≤ dMax s) :
    encodedValue s x < modulus s := by
  have h := (hi hc).2.2.1
  have hm : x * s.a.toNat ≤ dMax s * s.a.toNat := Nat.mul_le_mul_right _ hx
  have := modulus_pos s
  unfold encodedValue modulus at *
  omega

/-- Every word of a legal configuration fits the 128-bit buses. -/
theorem lt_of_lt_modulus (hi : ConfigInv s) (hc : s.cfgok = true) {v : Nat} (hv : v < modulus s) : v < 2 ^ 128 :=
  hv.trans_le (Nat.pow_le_pow_right (by omega) (by have := (hi hc).1; omega))

/-- Decoding a multiple `k × A`, reduced or not, gives `k` modulo `M` (`41_codec.md` rule R95). -/
theorem decodedValue_mul_mod (hi : ConfigInv s) (hc : s.cfgok = true) (k : Nat) :
    decodedValue s (k * s.a.toNat % modulus s) = k % modulus s := by
  have h := (hi hc).2.2.2.1.2
  have h1 : s.a.toNat * s.ainv.toNat ≡ 1 [MOD modulus s] := by
    have := two_dMax_lt hi hc
    rw [Nat.ModEq, Nat.mod_eq_of_lt (a := 1) (by omega)]
    exact h
  have h2 : k * s.a.toNat % modulus s * s.ainv.toNat ≡ k [MOD modulus s] :=
    calc k * s.a.toNat % modulus s * s.ainv.toNat
        ≡ k * s.a.toNat * s.ainv.toNat [MOD modulus s] := (Nat.mod_modEq _ _).mul_right _
      _ = k * (s.a.toNat * s.ainv.toNat) := Nat.mul_assoc ..
      _ ≡ k * 1 [MOD modulus s] := h1.mul_left _
      _ = k := Nat.mul_one k
  exact h2

/-- Decoding undoes encoding (`41_codec.md` rule R95). -/
theorem decodedValue_encodedValue (hi : ConfigInv s) (hc : s.cfgok = true) {x : Nat} (hx : x ≤ dMax s) :
    decodedValue s (encodedValue s x) = x := by
  have h1 := encodedValue_lt hi hc hx
  have h2 := dMax_lt hi hc
  have h3 := decodedValue_mul_mod hi hc x
  rwa [Nat.mod_eq_of_lt (a := x) (by omega), Nat.mod_eq_of_lt (a := x * s.a.toNat) h1] at h3

/-- Encoding undoes decoding modulo `M`: decoding is a bijection of `[0, M)` (`41_codec.md` rule R95). -/
theorem decodedValue_mul_a (hi : ConfigInv s) (hc : s.cfgok = true) {v : Nat} (hv : v < modulus s) :
    decodedValue s v * s.a.toNat % modulus s = v := by
  have h := (hi hc).2.2.2.1.2
  have h1 : s.ainv.toNat * s.a.toNat ≡ 1 [MOD modulus s] := by
    have := two_dMax_lt hi hc
    rw [Nat.ModEq, Nat.mod_eq_of_lt (a := 1) (by omega), Nat.mul_comm]
    exact h
  have h2 : decodedValue s v * s.a.toNat ≡ v [MOD modulus s] :=
    calc decodedValue s v * s.a.toNat
        ≡ v * s.ainv.toNat * s.a.toNat [MOD modulus s] := (Nat.mod_modEq _ _).mul_right _
      _ = v * (s.ainv.toNat * s.a.toNat) := Nat.mul_assoc ..
      _ ≡ v * 1 [MOD modulus s] := h1.mul_left _
      _ = v := Nat.mul_one v
  rw [h2, Nat.mod_eq_of_lt hv]

/-! ## When the tests of an element command pass (`60_exceptions.md` rule R159) -/

theorem encElement_ok {v : Nat} (h : v ≤ dMax s) : encElement s v = .ok (encodedValue s v) := by
  simp [encElement, rawWidthFault, not_lt.mpr h]

theorem laneFault_none {v : Nat} (h1 : v < modulus s) (h2 : decodedValue s v ≤ dMax s) :
    firstFault [encodedWidthFault s v, rangeFault s v] = none := by
  simp [encodedWidthFault, rangeFault, not_le.mpr h1, not_lt.mpr h2, firstFault]

theorem laneFault_range {v : Nat} (h1 : v < modulus s) (h2 : dMax s < decodedValue s v) :
    firstFault [encodedWidthFault s v, rangeFault s v] = some .range := by
  simp [encodedWidthFault, rangeFault, not_le.mpr h1, h2, firstFault]

theorem arithElement_pass {isDiv : Bool} {v : Nat} {result : Except Cause Nat} (h1 : v < modulus s)
    (h2 : s.opd.toNat ≤ dMax s) (h3 : isDiv = true → s.opd.toNat ≠ 0) (h4 : decodedValue s v ≤ dMax s) :
    arithElement isDiv s v result = result := by
  have : ¬(isDiv = true ∧ s.opd = 0#64) := fun h => h3 h.1 (by simp [h.2])
  simp [arithElement, encodedWidthFault, operandFault, rangeFault, not_le.mpr h1, not_lt.mpr h2, not_lt.mpr h4, firstFault]
  split_ifs with h
  · exact absurd ⟨h.1, BitVec.toNat_inj.mp (by simpa using h.2)⟩ this
  · rfl

end Sys2Proof.Machine
end

