-- ==== Sys2Proof/Laws/PerInstr.lean ====
section
/-! SUPPORT. Statements made per command, one lemma per constructor of `Instr`.
The family `RoundTrip`: the decoder reads a well-formed command back from its word (`30_encoding.md` rules R67 to R73). -/

namespace Sys2Proof.Laws.RoundTrip

/-- Decoding the word of `i` gives `i`. -/
def Statement (i : Instr) : Prop := WellFormed i → decode (encode i) = .ok i

theorem nop : Statement .nop := by intro; decide

theorem inv (w : Nat) : Statement (.inv w) := by
  intro h
  have hw : w < 2 ^ 8 := by simpa [WellFormed, Instr.wellFormed] using h
  have hn : (w * 2 ^ 8 + 1) % 2 ^ 32 = w * 2 ^ 8 + 1 := by omega
  have h0 : bits (w * 2 ^ 8 + 1) 7 0 = 1 := by simp only [bits]; omega
  have h1 : bits (w * 2 ^ 8 + 1) 31 16 = 0 := by simp only [bits]; omega
  have h2 : bits (w * 2 ^ 8 + 1) 15 8 = w := by simp only [bits]; omega
  change decodeNat ((w * 2 ^ 8 + 1) % 2 ^ 32) = _
  rw [hn, decodeNat, h0]
  change formatW _ _ = _
  rw [formatW, h1, if_pos rfl, h2]

theorem cfg (win wout : Nat) : Statement (.cfg win wout) := by
  intro h
  have hw : win < 2 ^ 8 ∧ wout < 2 ^ 8 := by simpa [WellFormed, Instr.wellFormed] using h
  have hn : (win * 2 ^ 16 + wout * 2 ^ 8 + 2) % 2 ^ 32 = win * 2 ^ 16 + wout * 2 ^ 8 + 2 := by omega
  have h0 : bits (win * 2 ^ 16 + wout * 2 ^ 8 + 2) 7 0 = 2 := by simp only [bits]; omega
  have h1 : bits (win * 2 ^ 16 + wout * 2 ^ 8 + 2) 31 24 = 0 := by simp only [bits]; omega
  have h2 : bits (win * 2 ^ 16 + wout * 2 ^ 8 + 2) 23 16 = win := by simp only [bits]; omega
  have h3 : bits (win * 2 ^ 16 + wout * 2 ^ 8 + 2) 15 8 = wout := by simp only [bits]; omega
  change decodeNat ((win * 2 ^ 16 + wout * 2 ^ 8 + 2) % 2 ^ 32) = _
  rw [hn, decodeNat, h0]
  change formatC _ _ = _
  rw [formatC, h1, if_pos rfl, h2, h3]

theorem setop : Statement .setop := by intro; decide

theorem start : Statement .start := by intro; decide

theorem nextiter : Statement .nextiter := by intro; decide

theorem rdreg (r : Nat) : Statement (.rdreg r) := by
  intro h
  have hr : r < 2 ^ 4 := by simpa [WellFormed, Instr.wellFormed] using h
  have hn : (r * 2 ^ 8 + 6) % 2 ^ 32 = r * 2 ^ 8 + 6 := by omega
  have h0 : bits (r * 2 ^ 8 + 6) 7 0 = 6 := by simp only [bits]; omega
  have h1 : bits (r * 2 ^ 8 + 6) 31 12 = 0 := by simp only [bits]; omega
  have h2 : bits (r * 2 ^ 8 + 6) 11 8 = r := by simp only [bits]; omega
  change decodeNat ((r * 2 ^ 8 + 6) % 2 ^ 32) = _
  rw [hn, decodeNat, h0]
  change formatR _ _ = _
  rw [formatR, h1, if_pos rfl, h2]

theorem enc : Statement .enc := by intro; decide

theorem chk : Statement .chk := by intro; decide

theorem dec : Statement .dec := by intro; decide

theorem add : Statement .add := by intro; decide

theorem sub : Statement .sub := by intro; decide

theorem mul : Statement .mul := by intro; decide

theorem div : Statement .div := by intro; decide

end Sys2Proof.Laws.RoundTrip
end

