-- ==== Sys2Proof/Laws/Step.lean ====
section
/-! SUPPORT. What a step can do, said once, and runs as iterated steps. -/

namespace Sys2Proof.Machine

theorem step_idle {s : State} (h : s.pending = []) : step s = .next s := by
  simp [step, h, idle]

theorem step_rst {s : State} {rest : List HostInput} (h : s.pending = .rst :: rest) :
    step s = .next (s.applyReset rest) := by
  simp [step, h, takeReset]

theorem step_command {s : State} {c : CmdWord} {d : Data} {rest : List HostInput} {i : Instr}
    (h : s.pending = .command c d :: rest) (hd : decode c = .ok i) : step s = exec i (s.accept d rest) := by
  simp [step, h, runWord, hd]

theorem step_illegal {s : State} {c : CmdWord} {d : Data} {rest : List HostInput} {reason : Reject}
    (h : s.pending = .command c d :: rest) (hd : decode c = .error reason) :
    step s = .next ((s.accept d rest).respond .illegal 0) := by
  simp [step, h, runWord, hd, illegalWord]

/-- What a step can do: idle, reset, refuse an illegal word, or execute a command in one of the ways of `Effect`. -/
theorem step_next {s t : State} (h : step s = .next t) :
    (s.pending = [] ∧ t = s) ∨
    (∃ rest, s.pending = .rst :: rest ∧ t = s.applyReset rest) ∨
    (∃ c d rest reason, s.pending = .command c d :: rest ∧ decode c = .error reason ∧
      t = (s.accept d rest).respond .illegal 0) ∨
    ∃ c d rest i u r, s.pending = .command c d :: rest ∧ decode c = .ok i ∧
      t = u.respond r.resp r.dout ∧ Effect (s.accept d rest) i u r := by
  match hp : s.pending with
  | [] =>
    rw [step_idle hp] at h
    injection h with h
    exact .inl ⟨rfl, h.symm⟩
  | .rst :: rest =>
    rw [step_rst hp] at h
    injection h with h
    exact .inr (.inl ⟨rest, rfl, h.symm⟩)
  | .command c d :: rest =>
    cases hd : decode c with
    | error reason =>
      rw [step_illegal hp hd] at h
      injection h with h
      exact .inr (.inr (.inl ⟨c, d, rest, reason, rfl, hd, h.symm⟩))
    | ok i =>
      rw [step_command hp hd] at h
      obtain ⟨u, r, hu, he⟩ := exec_next h
      exact .inr (.inr (.inr ⟨c, d, rest, i, u, r, rfl, hd, hu, he⟩))

/-- One more step of any machine behind the host's interface. -/
theorem core_run_succ (m : Host.Core) (k : Nat) {s t : m.State} (h : m.step s = .next t) : m.run (k + 1) s = m.run k t := by
  simp [Host.Core.run, h]

/-- A run of one more step: the step, then the rest of the run. -/
theorem run_succ {s t : State} (k : Nat) (h : step s = .next t) : core.run (k + 1) s = core.run k t :=
  core_run_succ core k h

theorem run_zero (s : State) : core.run 0 s = .next s := rfl

end Sys2Proof.Machine
end

