-- ==== Sys2Proof/Tests/Slice0.lean ====
section
/-! SUPPORT. The model's own tests. Expected values come from spec/, mostly `95_test_vectors.md`, never from the model;
each test names its source. The witnesses at the end show that the hypotheses of the statements can be met together. -/

open Sys2Proof Sys2Proof.Machine

namespace Slice0

/-! ## Helpers -/

/-- The state after `CFG 16, 32 ; 3` from reset (`95_test_vectors.md` S1), with plain operand `y` and `v` on `din`. -/
def ready (v : Nat) (y : Nat := 0) : State :=
  { State.reset with
    cfgok := true, win := 16, wout := 32, a := 3, ainv := 2863311531, opd := BitVec.ofNat 64 y, din := BitVec.ofNat 128 v }

/-- `ready` after a failed `CHK ; 1` at offset 2 of iteration 1: an error is latched (`95_test_vectors.md` V-CTL). -/
def latched (v : Nat) (y : Nat := 0) : State :=
  { ready v y with
    err := true, errKind := .corruption, errCause := .range, errTag := 0x11, idx := 2, iter := 1, erroff := 2, erriter := 1 }

/-- The state an outcome leaves, or reset. -/
def after : Result → State
  | .next t => t
  | .fault _ => State.reset
  | .refused _ => State.reset

/-- What `95_test_vectors.md` reports of a command: `resp`, `dout`, then `IDX`, `STATUS`, `ERRINFO` after it. -/
def report (r : Result) : Option (RespCode × Nat × Nat × Nat × Nat) :=
  match r with
  | .next t =>
    t.responses.getLast?.map fun p =>
      (p.resp, p.dout.toNat, t.idx.toNat, (statusWord t).toNat, (errinfoWord t).toNat)
  | .fault _ => none
  | .refused _ => none

/-- The `ready` state of the smallest configuration, `CFG 1, 2 ; 3` (`95_test_vectors.md` V-CFG). -/
def smallest (v : Nat) : State :=
  { State.reset with cfgok := true, win := 1, wout := 2, a := 3, ainv := 3, din := BitVec.ofNat 128 v }

/-- The `ready` state of a largest configuration, `CFG 62, 64 ; 3` (`95_test_vectors.md` V-CFG). -/
def largest (v : Nat) (y : Nat := 0) : State :=
  { State.reset with
    cfgok := true, win := 62, wout := 64, a := 3, ainv := 12297829382473034411, opd := BitVec.ofNat 64 y
    din := BitVec.ofNat 128 v }

/-! ## Well-formedness -/

/-- `30_encoding.md` rules R69 to R71: one ill-formed term for each check, beside the largest well-formed ones. -/
theorem test_wellFormed_refuses :
    ¬ WellFormed (.inv 256) ∧ ¬ WellFormed (.cfg 256 1) ∧ ¬ WellFormed (.cfg 1 256) ∧ ¬ WellFormed (.rdreg 16) ∧
    WellFormed (.inv 255) ∧ WellFormed (.cfg 255 255) ∧ WellFormed (.rdreg 15) := by decide

/-! ## Decoding: words written bit by bit from `30_encoding.md` rules R66 to R73, `cmd[31]` first -/

/-- Control, format Z: zeros and the opcode 0x00, 0x03, 0x04, 0x05 in `cmd[7:0]`. -/
theorem test_decode_control :
    decode 0b00000000000000000000000000000000 = .ok .nop ∧ decode 0b00000000000000000000000000000011 = .ok .setop ∧
    decode 0b00000000000000000000000000000100 = .ok .start ∧
    decode 0b00000000000000000000000000000101 = .ok .nextiter := by decide

/-- Format R: `cmd[11:8]` is `r`, opcode 0x06. -/
theorem test_decode_rdreg :
    decode 0b00000000000000000000_1001_00000110 = .ok (.rdreg 9) ∧
    decode 0b00000000000000000000_1111_00000110 = .ok (.rdreg 15) := by decide

/-- Format W: `cmd[15:8]` is `w`, opcode 0x01. -/
theorem test_decode_inv :
    decode 0b0000000000000000_00001000_00000001 = .ok (.inv 8) ∧
    decode 0b0000000000000000_11111111_00000001 = .ok (.inv 255) := by decide

/-- Format C: `cmd[23:16]` is `win`, `cmd[15:8]` is `wout`, opcode 0x02. -/
theorem test_decode_cfg :
    decode 0b00000000_00010000_00100000_00000010 = .ok (.cfg 16 32) ∧
    decode 0b00000000_11111111_00000000_00000010 = .ok (.cfg 255 0) := by decide

/-- Codec and arithmetic, format Z: opcodes 0x10 to 0x12 and 0x18 to 0x1B. -/
theorem test_decode_elements :
    decode 0b00000000000000000000000000010000 = .ok .enc ∧ decode 0b00000000000000000000000000010001 = .ok .chk ∧
    decode 0b00000000000000000000000000010010 = .ok .dec ∧ decode 0b00000000000000000000000000011000 = .ok .add ∧
    decode 0b00000000000000000000000000011001 = .ok .sub ∧ decode 0b00000000000000000000000000011010 = .ok .mul ∧
    decode 0b00000000000000000000000000011011 = .ok .div := by decide

/-- `95_test_vectors.md` V-ILL: a reserved opcode, or a 1 where the format requires 0, is refused by name. -/
theorem test_decode_refuses :
    decode 0x00000007 = .error (.reservedOpcode 7) ∧ decode 0x00000013 = .error (.reservedOpcode 0x13) ∧
    decode 0x000000FF = .error (.reservedOpcode 0xFF) ∧ decode 0x00000110 = .error (.mustBeZero 0x10) ∧
    decode 0x80000010 = .error (.mustBeZero 0x10) ∧ decode 0x00010001 = .error (.mustBeZero 1) ∧
    decode 0x01102002 = .error (.mustBeZero 2) ∧ decode 0x00001006 = .error (.mustBeZero 6) ∧
    decode 0x00000104 = .error (.mustBeZero 4) := by decide

/-- `30_encoding.md` rule R73: the fourteen rows have different names, and no two rows are selected by one word. -/
theorem test_opcode_rows_differ :
    opcodeTable.length = 14 ∧ (opcodeTable.map fun r => r.mnemonic).Nodup ∧
    opcodeTable.Pairwise fun r q => r.matchBits &&& q.maskBits ≠ q.matchBits &&& r.maskBits := by decide

/-- `30_encoding.md` rule R77 and `95_test_vectors.md` S2: `RDREG ERROFF` is `0x00000906`, `RDREG ERRINFO` `0x00000806`. -/
theorem test_register_names :
    encode (.rdreg RegName.erroff.index) = 0x00000906 ∧ encode (.rdreg RegName.errinfo.index) = 0x00000806 ∧
    encode (.rdreg RegName.erriter.index) = 0x00000A06 ∧ encode (.rdreg RegName.cfgw.index) = 0x00000106 := by decide

/-- `95_test_vectors.md` S1: `CFG 16, 32` is `0x00102002`. -/
theorem test_encode_cfg : encode (.cfg 16 32) = 0x00102002 := by decide

/-- The host's questions about a row of opcode_table.json, for a legal word and an illegal one. -/
theorem test_table_words :
    decodeTableWord 32 0x00102002 = some (.cfg 16 32) ∧ decodeTableWord 32 0x0000001B = some .div ∧
    decodeTableWord 32 0x0000001C = none ∧
    report (step (State.reset.withFetchWord 32 0x00000010)) = some (.config, 7, 0, 2, 0x1072) := by decide

/-! ## One step of each command, from `95_test_vectors.md` part 2 -/

/-- V-CTL `NOP ; 12345`, and `NOP` after an error. -/
theorem test_nop :
    report (exec .nop (ready 12345)) = some (.ok, 0, 0, 1, 0) ∧
    report (exec .nop (latched 0)) = some (.ok, 0, 2, 3, 0x1111) := by decide

/-- V-INV: `INV 127 ; 3`, the largest width. -/
theorem test_inv_largest_width :
    report (exec (.inv 127) (ready 3)) = some (.ok, 56713727820156410577229101238628035243, 0, 1, 0) := by decide

/-- V-INV: the width is tested before the parity (`INV 200 ; 4`), and `INV 8 ; 6` is even. -/
theorem test_inv_errors :
    report (exec (.inv 200) (ready 4)) = some (.config, 6, 0, 1, 0) ∧
    report (exec (.inv 8) (ready 6)) = some (.config, 4, 0, 1, 0) := by decide

/-- V-CFG: `CFG 32, 64 ; 0x100000001`, exactly at the limit of check 5. -/
theorem test_cfg_limit :
    report (exec (.cfg 32 64) (ready 4294967297)) = some (.ok, 18446744069414584321, 0, 1, 0) ∧
    (after (exec (.cfg 32 64) (ready 4294967297))).a = 4294967297 := by decide

/-- V-CFG: `CFG 8, 16 ; 4` after a configuration clears `CFGOK` and keeps `CFGW`, `A`, `AINV`. -/
theorem test_cfg_failure :
    report (exec (.cfg 8 16) (ready 4)) = some (.config, 4, 0, 0, 0) ∧
    cfgwWord (after (exec (.cfg 8 16) (ready 4))) = 0x2010 ∧ (after (exec (.cfg 8 16) (ready 4))).a = 3 := by decide

/-- V-ADD: `SETOP ; 2^64+9` keeps `din[63:0]`, that is 9. -/
theorem test_setop_low_bits : (after (exec .setop (ready 18446744073709551625))).opd = 9 := by decide

/-- V-CTL: `START` clears the latch, the record and the counters, and keeps `OPD`. -/
theorem test_start :
    report (exec .start (latched 0 7)) = some (.ok, 0, 0, 1, 0) ∧ (after (exec .start (latched 0 7))).opd = 7 ∧
    (after (exec .start (latched 0 7))).erroff = 0 ∧ (after (exec .start (latched 0 7))).iter = 0 := by decide

/-- V-CTL: `NEXTITER` counts and zeroes `IDX`; it is refused after an error. -/
theorem test_nextiter :
    (after (exec .nextiter { ready 0 with idx := 2 })).iter = 1 ∧
    (after (exec .nextiter { ready 0 with idx := 2 })).idx = 0 ∧
    report (exec .nextiter (latched 0)) = some (.aborted, 0, 2, 3, 0x1111) := by decide

/-- `43_call_control.md` rule R140: `ITER` wraps modulo `2^32`. -/
theorem test_nextiter_wraps : (after (exec .nextiter { ready 0 with iter := 0xFFFFFFFF })).iter = 0 := by decide

/-- V-CTL: `RDREG DMAX`, `RDREG CFGW`, `RDREG 15`. -/
theorem test_rdreg :
    report (exec (.rdreg 4) (ready 0)) = some (.ok, 65535, 0, 1, 0) ∧
    report (exec (.rdreg 1) (ready 0)) = some (.ok, 8208, 0, 1, 0) ∧
    report (exec (.rdreg 15) (ready 0)) = some (.ok, 0, 0, 1, 0) := by decide

/-- V-CTL and S2: `RDREG ERRINFO`, `STATUS`, `ERROFF` after an error. -/
theorem test_rdreg_record :
    report (exec (.rdreg 8) (latched 0)) = some (.ok, 4369, 2, 3, 0x1111) ∧
    report (exec (.rdreg 0) (latched 0)) = some (.ok, 3, 2, 3, 0x1111) ∧
    report (exec (.rdreg 9) (latched 0)) = some (.ok, 2, 2, 3, 0x1111) := by decide

/-- V-ENC: `ENC ; 65535`, the largest raw value. -/
theorem test_enc : report (exec .enc (ready 65535)) = some (.ok, 196605, 1, 1, 0) := by decide

/-- V-ENC: `ENC ; 65536` although the product fits, and `ENC ; 0` from reset. -/
theorem test_enc_errors :
    report (exec .enc (ready 65536)) = some (.config, 8, 0, 3, 0x1082) ∧
    report (exec .enc State.reset) = some (.config, 7, 0, 2, 0x1072) := by decide

/-- V-CHK: `CHK ; 196605`. -/
theorem test_chk : report (exec .chk (ready 196605)) = some (.ok, 0, 1, 1, 0) := by decide

/-- V-CHK: `CHK ; 196608`, and `CHK ; M` is too wide and not out of range. -/
theorem test_chk_errors :
    report (exec .chk (ready 196608)) = some (.corruption, 1, 0, 3, 0x1111) ∧
    report (exec .chk (ready 4294967296)) = some (.config, 8, 0, 3, 0x1182) := by decide

/-- V-DEC: `DEC ; 98304`. -/
theorem test_dec : report (exec .dec (ready 98304)) = some (.ok, 32768, 1, 1, 0) := by decide

/-- V-DEC: `DEC ; 196604`, with `DEC`'s tag. -/
theorem test_dec_error : report (exec .dec (ready 196604)) = some (.corruption, 1, 0, 3, 0x1211) := by decide

/-- V-ADD: `SETOP ; 200`, `ADD ; 196008` returns an invalid sum with `OK`. -/
theorem test_add : report (exec .add (ready 196008 200)) = some (.ok, 196608, 1, 1, 0) := by decide

/-- V-ADD: `SETOP ; 65536`, then `ADD ; 301` and `ADD ; M`: the order of the tests. -/
theorem test_add_errors :
    report (exec .add (ready 301 65536)) = some (.config, 9, 0, 3, 0x1892) ∧
    report (exec .add (ready 4294967296 65536)) = some (.config, 8, 0, 3, 0x1882) := by decide

/-- V-SUB: `SETOP ; 200`, `SUB ; 900` and `SUB ; 0`: the remainder is taken in `[0, M)`. -/
theorem test_sub :
    report (exec .sub (ready 900 200)) = some (.ok, 300, 1, 1, 0) ∧
    report (exec .sub (ready 0 200)) = some (.ok, 4294966696, 1, 1, 0) := by decide

/-- `42_arithmetic.md` rules R118, R120: `SUB` of an invalid word is rejected with `SUB`'s tag. -/
theorem test_sub_error : report (exec .sub (ready 301 200)) = some (.corruption, 1, 0, 3, 0x1911) := by decide

/-- V-MUL: `SETOP ; 65535`, `MUL ; 196605` is reduced modulo `M`. -/
theorem test_mul : report (exec .mul (ready 196605 65535)) = some (.ok, 4294574083, 1, 1, 0) := by decide

/-- V-MUL: `SETOP ; 5`, `MUL ; 301`. -/
theorem test_mul_error : report (exec .mul (ready 301 5)) = some (.corruption, 1, 0, 3, 0x1A11) := by decide

/-- V-DIV: `SETOP ; 65535`, `DIV ; 196605`. -/
theorem test_div : report (exec .div (ready 196605 65535)) = some (.ok, 3, 1, 1, 0) := by decide

/-- V-DIV: a remainder, a quotient out of range, a zero operand before an invalid value. -/
theorem test_div_errors :
    report (exec .div (ready 300 7)) = some (.corruption, 2, 0, 3, 0x1B21) ∧
    report (exec .div (ready 300 3)) = some (.corruption, 3, 0, 3, 0x1B31) ∧
    report (exec .div (ready 301 0)) = some (.config, 10, 0, 3, 0x1BA2) := by decide

/-- V-ILL: an illegal word is answered `ILLEGAL` also while an error is latched. -/
theorem test_illegal_while_latched :
    report (step ((latched 0).withFetchWord 32 7)) = some (.illegal, 0, 2, 3, 0x1111) := by decide

/-- `70_reset_and_hazards.md` rule R180: `rst` clears a latched error and produces no response. -/
theorem test_rst :
    (after (step { latched 0 with pending := [.rst] })).err = false ∧
    (after (step { latched 0 with pending := [.rst] })).cfgok = false ∧
    (after (step { latched 0 with pending := [.rst] })).responses = [] := by decide

/-! ## Witnesses: the hypotheses of each statement that has some, met together, clause by clause at boundary values -/

/-- `ready`, as in a run: commands `cs` issued and nothing else waiting. -/
def issuing (s : State) (cs : List (CmdWord × Data)) : State :=
  { s with pending := cs.map fun p => HostInput.command p.1 p.2 }

theorem test_witness_ResetMeetsTheInvariants :
    { State.reset with pending := [.rst] } = { State.reset with pending := [HostInput.rst] } := rfl

theorem test_witness_ResetInputGivesTheZeroState :
    ({ latched 0 with pending := [.rst] } : State).pending = .rst :: [] := rfl

theorem test_witness_IdleStepHoldsTheState : (latched 5).pending = [] := rfl

theorem test_witness_DecodeOfEncodeIsTheCommand :
    WellFormed (.inv 255) ∧ WellFormed (.cfg 255 255) ∧ WellFormed (.rdreg 15) ∧ WellFormed .nop := by decide

theorem test_witness_EncodeOfDecodeIsTheWord : decode 0x00FFFF02 = .ok (.cfg 255 255) := by decide

theorem test_witness_LegalWordsAreThoseOfTheOpcodeMap :
    decode 0x00000F06 = .ok (.rdreg 15) ∧ opcodeRow (.rdreg 15) ∈ opcodeTable ∧
    (0x00000F06 : CmdWord) &&& (opcodeRow (.rdreg 15)).maskBits = (opcodeRow (.rdreg 15)).matchBits := by decide

theorem test_witness_StepRunsTheDecodedCommand :
    (issuing (ready 0) [(0x00000011, 3), (0, 0)]).pending = .command 0x00000011 3 :: [.command 0 0] ∧
    decode 0x00000011 = .ok .chk := by decide

theorem test_witness_IllegalWordChangesNoState :
    (issuing (latched 0) [(0x00000007, 0)]).pending = .command 0x00000007 0 :: [] ∧
    ∀ row ∈ opcodeTable, (0x00000007 : CmdWord) &&& row.maskBits ≠ row.matchBits := by decide

theorem test_witness_EveryCommandOfARunIsAnswered :
    (issuing (ready 0) [(0x10, 1), (0xFF, 0)]).pending =
      [((0x10 : CmdWord), (1 : Data)), (0xFF, 0)].map fun p => HostInput.command p.1 p.2 := rfl

/-- `exec i s` gives `after (exec i s)` and the response `r`: the two hypotheses of several statements. -/
abbrev Answers (i : Instr) (s : State) (r : Response) : Prop :=
  exec i s = .next (after (exec i s)) ∧ (after (exec i s)).responses = s.responses ++ [r]

theorem eq_next_after {r : Result} (h : (report r).isSome = true) : r = .next (after r) := by
  cases r <;> simp_all [report, after]

/-- A clause each: an error of either kind, a refusal, a completion without a result. -/
theorem test_witness_ErrorResponsesCarryTheCause :
    Answers .chk (ready 1) ⟨.corruption, 1⟩ ∧ Answers (.inv 0) (ready 5) ⟨.config, 6⟩ ∧
    Answers .enc (latched 0) ⟨.aborted, 0⟩ ∧ Answers .chk (ready 3) ⟨.ok, 0⟩ ∧ hasNoResult .chk = true :=
  ⟨⟨rfl, rfl⟩, ⟨rfl, rfl⟩, ⟨rfl, rfl⟩, ⟨rfl, rfl⟩, rfl⟩

theorem test_witness_NextiterOpensTheNextIteration : (ready 0).err = false ∧ (latched 0).err = true := by decide

theorem test_witness_RdregReturnsTheRegister : WidthInv (largest 0) ∧ WidthInv State.reset := by decide

theorem test_witness_InvReturnsTheInverse :
    (1 ≤ 1 ∧ 1 ≤ 127 ∧ (ready 1).din.toNat % 2 = 1) ∧
    1 ≤ 127 ∧ 127 ≤ 127 ∧ (ready (2 ^ 128 - 1)).din.toNat % 2 = 1 := by decide

theorem test_witness_InvRejectsWidthThenParity :
    ((0 : Nat) = 0 ∧ 127 < 128) ∧ 1 ≤ 127 ∧ 127 ≤ 127 ∧ (ready 6).din.toNat % 2 = 0 := by decide

theorem test_witness_InvIsAFunctionOfItsOperands : (ready 5).din = (latched 5).din := by decide

/-- The smallest and a largest configuration, and the constant at the limit of check 5. -/
theorem test_witness_CfgInstallsTheConfiguration :
    (1 ≤ 1 ∧ 1 ≤ 2 ∧ 1 ≤ 2 ∧ 2 ≤ 64 ∧ (ready 3).din.toNat % 2 = 1 ∧ (ready 3).din.toNat ≠ 1 ∧
      (2 ^ 1 - 1) * (ready 3).din.toNat ≤ 2 ^ 2 - 1) ∧
    (1 ≤ 62 ∧ 62 ≤ 64 ∧ 64 ≤ 64 ∧ (2 ^ 62 - 1) * (ready 3).din.toNat ≤ 2 ^ 64 - 1) ∧
    (2 ^ 32 - 1) * (ready 4294967297).din.toNat ≤ 2 ^ 64 - 1 := by decide

/-- The cause by `95_test_vectors.md` V-CFG, one configuration for each check. -/
def cfgCause (win wout d : Nat) : Nat :=
  if wout = 0 ∨ 64 < wout then 6
  else if win = 0 ∨ wout < win then 5
  else if d % 2 = 0 then 4
  else if d = 1 then 5
  else if 2 ^ wout - 1 < (2 ^ win - 1) * d then 5
  else 0

theorem test_witness_CfgFailureClearsCfgok :
    cfgCause 8 0 (ready 3).din.toNat = 6 ∧ cfgCause 16 65 (ready 3).din.toNat = 6 ∧
    cfgCause 0 8 (ready 3).din.toNat = 5 ∧ cfgCause 17 16 (ready 3).din.toNat = 5 ∧
    cfgCause 8 16 (ready 4).din.toNat = 4 ∧ cfgCause 8 16 (ready 1).din.toNat = 5 ∧
    cfgCause 8 16 (ready 259).din.toNat = 5 ∧ cfgCause 8 16 (ready 257).din.toNat = 0 := by decide

theorem test_witness_EncDeliversTheExactProduct :
    (ConfigInv (ready 65535) ∧ (ready 65535).cfgok = true ∧ (ready 65535).err = false ∧
      (ready 65535).din.toNat ≤ 2 ^ (ready 65535).win.toNat - 1) ∧
    ConfigInv (smallest 1) ∧ (smallest 1).din.toNat ≤ 2 ^ (smallest 1).win.toNat - 1 ∧ ConfigInv (largest 0) := by decide

/-- At the largest code word and the largest operand. -/
theorem test_witness_AddSubMulDeliverTheReducedResult :
    ConfigInv (ready 196605 65535) ∧ (ready 196605 65535).cfgok = true ∧ (ready 196605 65535).err = false ∧
    (ready 196605 65535).din.toNat < 2 ^ (ready 196605 65535).wout.toNat ∧
    (ready 196605 65535).opd.toNat ≤ 2 ^ (ready 196605 65535).win.toNat - 1 ∧
    (ready 196605 65535).din.toNat * (ready 196605 65535).ainv.toNat % 2 ^ (ready 196605 65535).wout.toNat ≤
      2 ^ (ready 196605 65535).win.toNat - 1 := by decide

theorem test_witness_ChkPassesAValidValue :
    (ready 196605).cfgok = true ∧ (ready 196605).err = false ∧
    (ready 196605).din.toNat < 2 ^ (ready 196605).wout.toNat ∧
    (ready 196605).din.toNat * (ready 196605).ainv.toNat % 2 ^ (ready 196605).wout.toNat ≤
      2 ^ (ready 196605).win.toNat - 1 := by decide

theorem test_witness_DecDeliversTheDecodedValue :
    ConfigInv (smallest 3) ∧ (smallest 3).cfgok = true ∧ (smallest 3).err = false ∧ (smallest 3).din.toNat < 2 ^ (smallest 3).wout.toNat ∧
    (smallest 3).din.toNat * (smallest 3).ainv.toNat % 2 ^ (smallest 3).wout.toNat ≤
      2 ^ (smallest 3).win.toNat - 1 := by decide

theorem test_witness_DivDeliversTheExactQuotient :
    (ready 196605 65535).cfgok = true ∧ (ready 196605 65535).err = false ∧
    (ready 196605 65535).din.toNat < 2 ^ (ready 196605 65535).wout.toNat ∧
    (ready 196605 65535).opd.toNat ≤ 2 ^ (ready 196605 65535).win.toNat - 1 ∧ (ready 196605 65535).opd.toNat ≠ 0 ∧
    (ready 196605 65535).din.toNat * (ready 196605 65535).ainv.toNat % 2 ^ (ready 196605 65535).wout.toNat ≤
      2 ^ (ready 196605 65535).win.toNat - 1 ∧
    (ready 196605 65535).din.toNat % (ready 196605 65535).opd.toNat = 0 ∧
    (ready 196605 65535).din.toNat / (ready 196605 65535).opd.toNat * (ready 196605 65535).ainv.toNat %
      2 ^ (ready 196605 65535).wout.toNat ≤ 2 ^ (ready 196605 65535).win.toNat - 1 := by decide

/-- The first test that hits, in a state with no error latched. -/
def firstHit (op : ElementOp) (s : State) : Option (Bool × Cause) := (elementTests op s).find? fun p => p.1

/-- One state for each of the seven causes an element command raises, and states where no test hits. -/
theorem test_witness_FirstFailingTestIsRecorded :
    (ready 0).err = false ∧ State.reset.err = false ∧
    firstHit .div State.reset = some (true, .notConfigured) ∧ firstHit .enc (ready 65536) = some (true, .inputWidth) ∧
    firstHit .chk (ready 4294967296) = some (true, .inputWidth) ∧ firstHit .dec (ready 196608) = some (true, .range) ∧
    firstHit .add (ready 301 65536) = some (true, .operandRange) ∧ firstHit .sub (ready 301 1) = some (true, .range) ∧
    firstHit .div (ready 301 0) = some (true, .divZero) ∧ firstHit .div (ready 300 7) = some (true, .divisibility) ∧
    firstHit .div (ready 300 3) = some (true, .resultRange) ∧ firstHit .div (ready 300 4) = none ∧
    firstHit .mul (ready 196605 65535) = none ∧ firstHit .enc (ready 65535) = none := by decide

theorem test_witness_LatchedErrorRefusesTheRestOfTheCall :
    (latched 0).err = true ∧ runsWhileLatched .nextiter = false ∧ runsWhileLatched (.cfg 16 32) = true := by decide

/-- `95_test_vectors.md` V-CHK: `(DMAX + 1) × A` and `M − 1` both decode out of range. -/
theorem test_witness_CorruptionIsRecordedAtItsOffset :
    (ready 196608).cfgok = true ∧ (ready 196608).err = false ∧
    (ready 196608).din.toNat < 2 ^ (ready 196608).wout.toNat ∧
    2 ^ (ready 196608).win.toNat - 1 <
      (ready 196608).din.toNat * (ready 196608).ainv.toNat % 2 ^ (ready 196608).wout.toNat ∧
    (ready 4294967295).din.toNat < 2 ^ (ready 4294967295).wout.toNat ∧
    2 ^ (ready 4294967295).win.toNat - 1 <
      (ready 4294967295).din.toNat * (ready 4294967295).ainv.toNat % 2 ^ (ready 4294967295).wout.toNat := by decide

/-- The same element at offset 0 of iteration 0 and at offset 9 of iteration 3. -/
theorem test_witness_ElementResponseIgnoresPosition :
    SameConfig (ready 5 1) { ready 5 1 with idx := 9, iter := 3 } ∧
    (ready 5 1).opd = ({ ready 5 1 with idx := 9, iter := 3 } : State).opd ∧
    (ready 5 1).din = ({ ready 5 1 with idx := 9, iter := 3 } : State).din ∧ (ready 5 1).err = false := by decide

/-- A clause each: the command runs, answers so, and the named register does change. -/
theorem test_witness_OnlyTheNamedCommandsWriteEachRegister :
    (Answers (.cfg 8 16) (ready 4) ⟨.config, 4⟩ ∧ (after (exec (.cfg 8 16) (ready 4))).cfgok ≠ (ready 4).cfgok) ∧
    (Answers (.cfg 1 2) (ready 3) ⟨.ok, 3⟩ ∧ (after (exec (.cfg 1 2) (ready 3))).win ≠ (ready 3).win) ∧
    (Answers .setop (ready 7) ⟨.ok, 0⟩ ∧ (after (exec .setop (ready 7))).opd ≠ (ready 7).opd) ∧
    (Answers .chk (ready 3) ⟨.ok, 0⟩ ∧ (after (exec .chk (ready 3))).idx ≠ (ready 3).idx) ∧
    (Answers .nextiter (ready 0) ⟨.ok, 0⟩ ∧ (after (exec .nextiter (ready 0))).iter ≠ (ready 0).iter) ∧
    (Answers .start (latched 0) ⟨.ok, 0⟩ ∧ (after (exec .start (latched 0))).err ≠ (latched 0).err) ∧
    (Answers .chk (ready 1) ⟨.corruption, 1⟩ ∧ (after (exec .chk (ready 1))).errCause ≠ (ready 1).errCause) ∧
    Answers .mul (latched 0) ⟨.aborted, 0⟩ := by
  refine ⟨⟨⟨rfl, rfl⟩, ?_⟩, ⟨⟨eq_next_after ?_, ?_⟩, ?_⟩, ⟨⟨rfl, rfl⟩, ?_⟩, ⟨⟨rfl, rfl⟩, ?_⟩, ⟨⟨rfl, rfl⟩, ?_⟩,
    ⟨⟨rfl, rfl⟩, ?_⟩, ⟨⟨rfl, rfl⟩, ?_⟩, ⟨rfl, rfl⟩⟩ <;> decide

/-- Both parts: `INV` of an even constant and `CFG` of one, each while an error is latched. -/
theorem test_witness_ErrorsOfInvAndCfgAreNotLatched :
    Answers (.inv 8) (latched 6) ⟨.config, 4⟩ ∧ Answers (.cfg 8 16) (latched 4) ⟨.config, 4⟩ := ⟨⟨rfl, rfl⟩, ⟨rfl, rfl⟩⟩

/-- A latched state that stays latched, one that `START` ends and one that `rst` ends. -/
theorem test_witness_OnlyStartOrResetEndsALatchedError :
    (latched 0).err = true ∧
    step (issuing (latched 0) [(0x10, 1)]) = .next (after (step (issuing (latched 0) [(0x10, 1)]))) ∧
    step (issuing (latched 0) [(4, 0)]) = .next (after (step (issuing (latched 0) [(4, 0)]))) ∧
    step { latched 0 with pending := [.rst] } = .next (after (step { latched 0 with pending := [.rst] })) :=
  ⟨rfl, rfl, rfl, rfl⟩

/-- Every invariant holds of a configured state and of a latched one, and a command steps each of them. -/
theorem test_witness_steps_keep_invariants :
    (ConfigInv (latched 0) ∧ RecordInv (latched 0) ∧ RecordAgrees (latched 0) ∧ WidthInv (latched 0)) ∧
    (ConfigInv (ready 0) ∧ RecordInv (ready 0) ∧ RecordAgrees (ready 0) ∧ WidthInv (ready 0)) ∧
    (∃ t, step (issuing (latched 0) [(0x00081002, 257)]) = .next t) ∧
    ∃ t, step (issuing (ready 0) [(0x11, 1)]) = .next t :=
  ⟨by decide, by decide, ⟨_, rfl⟩, ⟨_, rfl⟩⟩

theorem test_witness_StepsKeepTheConfigurationInvariant :
    ConfigInv (issuing (ready 0) [(0x00081002, 257)]) ∧
    ∃ t, step (issuing (ready 0) [(0x00081002, 257)]) = .next t := ⟨by decide, _, rfl⟩

theorem test_witness_StepsKeepTheErrorRecordInvariant :
    RecordInv (issuing (ready 0) [(0x11, 1)]) ∧ ∃ t, step (issuing (ready 0) [(0x11, 1)]) = .next t :=
  ⟨by decide, _, rfl⟩

theorem test_witness_StepsKeepTheRecordInAgreement :
    RecordAgrees (issuing (ready 0) [(0x11, 1)]) ∧ ∃ t, step (issuing (ready 0) [(0x11, 1)]) = .next t :=
  ⟨by decide, _, rfl⟩

theorem test_witness_StepsKeepTheWidthsInRange :
    WidthInv (issuing State.reset [(0x003E4002, 3)]) ∧
    ∃ t, step (issuing State.reset [(0x003E4002, 3)]) = .next t := ⟨by decide, _, rfl⟩

/-- An accepted code word and a refused word meet the premises of `ChkAcceptsExactlyTheCodeWords`. -/
theorem test_witness_ChkAcceptsExactlyTheCodeWords :
    (ConfigInv (ready 196605) ∧ (ready 196605).cfgok = true ∧ (ready 196605).err = false ∧
      (ready 196605).din.toNat < 2 ^ (ready 196605).wout.toNat) ∧
    ConfigInv (ready 1) ∧ (ready 1).cfgok = true ∧ (ready 1).err = false ∧
      (ready 1).din.toNat < 2 ^ (ready 1).wout.toNat := by decide

theorem test_witness_AcceptedWordsAreCounted :
    ConfigInv (smallest 0) ∧ (smallest 0).cfgok = true ∧ (smallest 0).err = false := by decide

theorem test_witness_DecodeOfEncodedValueIsTheValue :
    ConfigInv (largest (2 ^ 62 - 1)) ∧ (largest (2 ^ 62 - 1)).cfgok = true ∧ (largest (2 ^ 62 - 1)).err = false ∧
    (largest (2 ^ 62 - 1)).din.toNat ≤ 2 ^ (largest (2 ^ 62 - 1)).win.toNat - 1 := by decide

/-- `x = 100` and `y = 4` meet every clause at once: sum, difference, product and exact quotient are in range. -/
theorem test_witness_ArithmeticCommutesWithDecoding :
    ConfigInv (ready 100 4) ∧ (ready 100 4).cfgok = true ∧ (ready 100 4).err = false ∧ (ready 100 4).din.toNat = 100 ∧
    (ready 100 4).opd.toNat = 4 ∧ 100 ≤ 2 ^ (ready 100 4).win.toNat - 1 ∧ 4 ≤ 2 ^ (ready 100 4).win.toNat - 1 ∧
    100 + 4 ≤ 2 ^ (ready 100 4).win.toNat - 1 ∧ 4 ≤ 100 ∧ 100 * 4 ≤ 2 ^ (ready 100 4).win.toNat - 1 ∧
    1 ≤ 4 ∧ 100 % 4 = 0 := by decide

/-- `x = 65534` and `y = 65535`: the sum and the product are too large, the difference is negative. -/
theorem test_witness_OutOfRangeResultsAreCaughtLater :
    ConfigInv (ready 196602 65535) ∧ (ready 196602 65535).cfgok = true ∧ (ready 196602 65535).err = false ∧
    (ready 196602 65535).din.toNat = 65534 * (ready 196602 65535).a.toNat ∧ (ready 196602 65535).opd.toNat = 65535 ∧
    65534 ≤ 2 ^ (ready 196602 65535).win.toNat - 1 ∧ 65535 ≤ 2 ^ (ready 196602 65535).win.toNat - 1 ∧
    2 ^ (ready 196602 65535).win.toNat - 1 < 65534 + 65535 ∧ 65534 < 65535 ∧
    2 ^ (ready 196602 65535).win.toNat - 1 < 65534 * 65535 ∧
    2 * (ready 196602 65535).win.toNat ≤ (ready 196602 65535).wout.toNat := by decide

/-- The sum is `DMAX`: `65335 + 200 = 65535`. -/
theorem test_witness_ArithmeticCommutesWithDecoding_sum :
    ConfigInv (ready 65335 200) ∧ (ready 65335 200).cfgok = true ∧ (ready 65335 200).err = false ∧ (ready 65335 200).din.toNat = 65335 ∧
    (ready 65335 200).opd.toNat = 200 ∧ 65335 ≤ 2 ^ (ready 65335 200).win.toNat - 1 ∧ 200 ≤ 2 ^ (ready 65335 200).win.toNat - 1 ∧
    65335 + 200 = 2 ^ (ready 65335 200).win.toNat - 1 := by decide

/-- The product is `DMAX`: `13107 × 5 = 65535`. -/
theorem test_witness_ArithmeticCommutesWithDecoding_product :
    ConfigInv (ready 13107 5) ∧ (ready 13107 5).cfgok = true ∧ (ready 13107 5).err = false ∧ (ready 13107 5).din.toNat = 13107 ∧
    (ready 13107 5).opd.toNat = 5 ∧ 13107 ≤ 2 ^ (ready 13107 5).win.toNat - 1 ∧ 5 ≤ 2 ^ (ready 13107 5).win.toNat - 1 ∧
    13107 * 5 = 2 ^ (ready 13107 5).win.toNat - 1 := by decide

/-- The largest raw value and operand: the difference is 0 and the quotient 1. -/
theorem test_witness_ArithmeticCommutesWithDecoding_largest :
    ConfigInv (ready 65535 65535) ∧ (ready 65535 65535).cfgok = true ∧ (ready 65535 65535).err = false ∧ (ready 65535 65535).din.toNat = 65535 ∧
    (ready 65535 65535).opd.toNat = 65535 ∧ 65535 ≤ 2 ^ (ready 65535 65535).win.toNat - 1 ∧ 65535 ≤ 2 ^ (ready 65535 65535).win.toNat - 1 ∧
    65535 = 2 ^ (ready 65535 65535).win.toNat - 1 ∧ 65535 - 65535 = 0 ∧ 65535 % 65535 = 0 := by decide

/-- `95_test_vectors.md` S1 and S2: a pass without and a pass with a failing element. -/
theorem test_witness_BulkOperationStopsAtTheFirstFailure :
    ({ ready 0 with pending := bulk .chk [0, 3, 196604, 98304] } : State).pending = bulk .chk [0, 3, 196604, 98304] ∧
    ConfigInv (ready 0) ∧ (ready 0).cfgok = true ∧
    List.Forall₂ (fun (v : Data) r => elementResult .dec (ready 0) v.toNat = .ok r) [3, 196605] [1, 65535] ∧
    List.Forall₂ (fun (v : Data) r => elementResult .chk (ready 0) v.toNat = .ok r) [0, 3] [0, 0] ∧
    elementResult .chk (ready 0) (196604 : Data).toNat = .error .range := by
  refine ⟨rfl, by decide, rfl, .cons ?_ (.cons ?_ .nil), .cons ?_ (.cons ?_ .nil), ?_⟩ <;> decide

theorem test_witness_RepeatedPassesFailFastForTheWholeCall :
    1 ≤ 2 ∧ ConfigInv (ready 0) ∧ (ready 0).cfgok = true ∧
    ({ ready 0 with pending := repeatPasses .chk 2 [0, 196604, 3] } : State).pending =
      repeatPasses .chk 2 ([0] ++ 196604 :: [3]) ∧
    List.Forall₂ (fun (v : Data) r => elementResult .chk (ready 0) v.toNat = .ok r) [0] [0] ∧
    elementResult .chk (ready 0) (196604 : Data).toNat = .error .range ∧
    List.Forall₂ (fun (v : Data) r => elementResult .chk (ready 0) v.toNat = .ok r) [0, 3] [0, 0] := by
  refine ⟨by decide, by decide, rfl, rfl, .cons ?_ .nil, ?_, .cons ?_ (.cons ?_ .nil)⟩ <;> decide

/-- `CHK ; 3`, `RDREG 0`, then `CHK ; 196604`: the failing element is the pass's second, at offset 1. -/
theorem test_witness_CorruptionIsFlaggedAtItsExactOffset :
    inOnePass [(.chk, 3), (.rdreg 0, 0)] = true ∧ (ready 0).idx = 0 ∧
    ({ ready 0 with pending := [issue .chk 3, issue (.rdreg 0) 0, issue .chk 196604] } : State).pending =
      [((.chk : Instr), (3 : Data)), (.rdreg 0, 0)].map (fun p => issue p.1 p.2) ++ issue .chk 196604 :: [] ∧
    ∃ t : State, core.run 2 { ready 0 with pending := [issue .chk 3, issue (.rdreg 0) 0, issue .chk 196604] } =
        Host.Outcome.next t ∧ t.cfgok = true ∧ t.err = false ∧ (196604 : Data).toNat < 2 ^ t.wout.toNat ∧
      2 ^ t.win.toNat - 1 < (196604 : Data).toNat * t.ainv.toNat % 2 ^ t.wout.toNat :=
  ⟨by decide, rfl, rfl, _, rfl, by decide, by decide, by decide, by decide⟩

end Slice0
end

section
/-! SUPPORT. Every command of a run is answered (`00_scope.md` rule R15): a command's effect leaves the host's channels
alone, so a step takes one command and adds one response; the run follows by induction on the list of commands. -/

namespace Sys2Proof.Machine

/-- What a command writes before its response is never the host's list of inputs. -/
theorem Effect.pending_eq {s u : State} {i : Instr} {r : Response} (h : Effect s i u r) : u.pending = s.pending := by
  cases h <;> simp

/-- What a command writes before its response is never the list of responses. -/
theorem Effect.responses_eq {s u : State} {i : Instr} {r : Response} (h : Effect s i u r) :
    u.responses = s.responses := by
  cases h <;> simp

/-- A step takes a waiting command, legal or not, and gives exactly one response (rules R15, R74). -/
theorem step_answers_command {s : State} {c : CmdWord} {d : Data} {rest : List HostInput}
    (h : s.pending = .command c d :: rest) :
    ∃ t r, step s = .next t ∧ t.pending = rest ∧ t.responses = s.responses ++ [r] := by
  cases hd : decode c with
  | error reason => exact ⟨_, ⟨.illegal, 0⟩, step_illegal h hd, rfl, rfl⟩
  | ok i =>
    obtain ⟨u, r, hu, he⟩ := exec_effect i (s.accept d rest)
    exact ⟨_, r, (step_command h hd).trans hu, by simp [he.pending_eq], by simp [he.responses_eq]⟩

/-- Settles O12, by induction on the list of commands. -/
theorem everyCommandOfARunIsAnswered : Obligations.EveryCommandOfARunIsAnswered := by
  unfold Obligations.EveryCommandOfARunIsAnswered
  intro s cs
  induction cs generalizing s with
  | nil => exact fun hp => ⟨s, [], run_zero s, hp, by simp, rfl⟩
  | cons p cs ih =>
    intro hp
    obtain ⟨s', r, hstep, hpending, hresp⟩ := step_answers_command hp
    obtain ⟨t, rs, hrun, hempty, hall, hlen⟩ := ih s' hpending
    exact ⟨t, r :: rs, (run_succ cs.length hstep).trans hrun, hempty, by simp [hall, hresp], by simp [hlen]⟩

end Sys2Proof.Machine
end

section
/-! SUPPORT. The configuration and width invariants (`10_state.md` rules R26, R36): they read registers only and only `CFG`
writes those registers, so it is enough that what a passing `CFG` installs meets them. -/

namespace Sys2Proof.Machine

variable {s t u : State} {i : Instr} {r : Response}

/-! ## Invariants of the registers -/

/-- `P` does not read the host's channels (log entry 1). -/
def ReadsOnlyRegisters (P : State → Prop) : Prop :=
  ∀ (s : State) (l : List HostInput) (d : Data) (rs : List Response), P s →
    P { s with pending := l, din := d, responses := rs }

/-- What holds at reset and is kept by every effect of a command is kept by every step. -/
theorem step_keeps {P : State → Prop} (hP : ReadsOnlyRegisters P) (hreset : P State.reset)
    (heffect : ∀ {s u : State} {i : Instr} {r : Response}, Effect s i u r → P s → P u) (h : P s)
    (hstep : step s = .next t) : P t := by
  obtain ⟨-, rfl⟩ | ⟨rest, -, rfl⟩ | ⟨c, d, rest, reason, -, -, rfl⟩ | ⟨c, d, rest, i, u, r, -, -, rfl, he⟩ :=
    step_next hstep
  case inl => exact h
  case inr.inl => exact hP _ rest 0 s.responses hreset
  case inr.inr.inl => exact hP s rest d _ h
  case inr.inr.inr => exact hP u u.pending u.din _ (heffect he (hP s rest d s.responses h))

/-! ## The reset state -/

/-- Settles O1: the reset state is written out. -/
theorem resetLeavesEveryRegisterZero : Obligations.ResetLeavesEveryRegisterZero := by
  unfold Obligations.ResetLeavesEveryRegisterZero
  decide

theorem configInv_reset : ConfigInv State.reset := by decide

theorem recordInv_reset : RecordInv State.reset := by decide

theorem recordAgrees_reset : RecordAgrees State.reset := by decide

theorem widthInv_reset : WidthInv State.reset := by decide

/-- Settles O2: the invariants hold at reset and none of them reads the host's list. -/
theorem resetMeetsTheInvariants : Obligations.ResetMeetsTheInvariants := by
  rintro inputs s rfl
  exact ⟨configInv_reset, recordInv_reset, recordAgrees_reset, widthInv_reset⟩

/-! ## What a passing `CFG` installs (`41_codec.md` rule R96) -/

section Install

variable {win wout d : Nat}

/-- An odd constant other than 1 leaves room for a check bit, clause (e) of `10_state.md` rule R26. -/
theorem bounds_of_configFault_eq_none (h : configFault win wout d = none) :
    3 ≤ d ∧ d < 2 ^ wout ∧ win < wout := by
  obtain ⟨-, ⟨hwin, hle⟩, hodd, hne, hfit⟩ := configFault_eq_none.mp h
  have hd : 3 ≤ d := by omega
  have hwin2 : 2 ^ 1 ≤ 2 ^ win := Nat.pow_le_pow_right (by omega) hwin
  have hconst : 1 * d ≤ (2 ^ win - 1) * d := Nat.mul_le_mul_right d (by omega)
  have hthree : (2 ^ win - 1) * 3 ≤ (2 ^ win - 1) * d := Nat.mul_le_mul_left _ hd
  refine ⟨hd, by omega, lt_of_le_of_ne hle ?_⟩
  rintro rfl
  omega

/-- Each register of the configuration holds its number exactly. -/
theorem install_toNat (s : State) (h : configFault win wout d = none) :
    (s.install win wout d (modinv d wout)).win.toNat = win ∧
    (s.install win wout d (modinv d wout)).wout.toNat = wout ∧
    (s.install win wout d (modinv d wout)).a.toNat = d ∧
    (s.install win wout d (modinv d wout)).ainv.toNat = modinv d wout := by
  obtain ⟨⟨-, hwout⟩, ⟨-, hle⟩, -⟩ := configFault_eq_none.mp h
  obtain ⟨-, hd, -⟩ := bounds_of_configFault_eq_none h
  have hM : 2 ^ wout ≤ 2 ^ 64 := Nat.pow_le_pow_right (by omega) hwout
  have hx := modinv_lt d wout
  exact ⟨Nat.mod_eq_of_lt (by omega), Nat.mod_eq_of_lt (by omega), Nat.mod_eq_of_lt (by omega),
    Nat.mod_eq_of_lt (by omega)⟩

/-- The installed configuration meets clauses (a) to (e) of `10_state.md` rule R26. -/
theorem configInv_install (s : State) (h : configFault win wout d = none) :
    ConfigInv (s.install win wout d (modinv d wout)) := by
  intro _
  obtain ⟨⟨hpos, hwout⟩, ⟨hwin, hle⟩, hodd, -, hfit⟩ := configFault_eq_none.mp h
  obtain ⟨hd, -, hlt⟩ := bounds_of_configFault_eq_none h
  obtain ⟨ewin, ewout, ea, eainv⟩ := install_toNat s h
  rw [dMax, ewin, ewout, ea, eainv]
  exact ⟨⟨hwin, hle, hwout⟩, ⟨hodd, hd⟩, hfit, ⟨modinv_lt d wout, modinv_mul hodd hpos⟩, hlt⟩

theorem widthInv_install (s : State) (h : configFault win wout d = none) :
    WidthInv (s.install win wout d (modinv d wout)) := by
  obtain ⟨⟨-, hwout⟩, ⟨-, hle⟩, -⟩ := configFault_eq_none.mp h
  obtain ⟨ewin, ewout, -, -⟩ := install_toNat s h
  rw [WidthInv, ewin, ewout]
  exact ⟨hle, hwout⟩

end Install

/-! ## Every step keeps both invariants -/

/-- A command installs a legal configuration, clears `CFGOK`, or leaves the configuration as it is. -/
theorem Effect.configInv (he : Effect s i u r) (h : ConfigInv s) : ConfigInv u := by
  cases he with
  | cfg win wout hf => exact configInv_install s hf
  | cfgRejected => exact fun hok => absurd hok Bool.false_ne_true
  | _ => exact h

theorem Effect.widthInv (he : Effect s i u r) (h : WidthInv s) : WidthInv u := by
  cases he with
  | cfg win wout hf => exact widthInv_install s hf
  | _ => exact h

/-- Settles O36: the invariant of `10_state.md` rule R26 holds at reset, and each effect of a command keeps it. -/
theorem stepsKeepTheConfigurationInvariant : Obligations.StepsKeepTheConfigurationInvariant :=
  ⟨fun inputs s hs => (resetMeetsTheInvariants inputs s hs).1,
    fun _ _ => step_keeps (fun _ _ _ _ => id) configInv_reset Effect.configInv⟩

/-- Settles O39: only a passing `CFG` writes the widths, and its checks bound them. -/
theorem stepsKeepTheWidthsInRange : Obligations.StepsKeepTheWidthsInRange :=
  fun _ _ => step_keeps (fun _ _ _ _ => id) widthInv_reset Effect.widthInv

end Sys2Proof.Machine
end

section
/-! SUPPORT. The error record (`10_state.md` rules R31 to R34): it is zeroed by `START` and reset, written by the error entry
of an element command (`60_exceptions.md` rule R163), and held while an error is latched (rule R165). -/

namespace Sys2Proof.Machine

variable {s u : State} {i : Instr} {r : Response}

/-- Only the cause `NONE` has the kind `NONE` (`60_exceptions.md` rule R156). -/
theorem Cause.kind_ne_none {c : Cause} (h : c ≠ .none) : c.kind ≠ .none := by
  cases c
  case none => exact absurd rfl h
  all_goals exact ErrKind.noConfusion

theorem opcode_mem_elementOpcodes (op : ElementOp) : opcode op.instr ∈ elementOpcodes := by
  cases op <;> decide

theorem recordInv_openCall (s : State) : RecordInv s.openCall :=
  ⟨fun _ => ⟨rfl, rfl, rfl, rfl, rfl⟩, fun h => absurd h Bool.false_ne_true⟩

/-- The error entry writes a record that `10_state.md` rule R34 allows. -/
theorem recordInv_latch (s : State) (op : ElementOp) {c : Cause} (h : c ≠ .none) :
    RecordInv (s.latch (opcode op.instr) c.kind c) :=
  ⟨fun he => absurd he (by simp), fun _ => ⟨c.kind_ne_none h, h, opcode_mem_elementOpcodes op⟩⟩

/-- A command opens a call, enters an error with a cause of its own, or leaves the record and the latch as they are. -/
theorem Effect.recordInv (he : Effect s i u r) (h : RecordInv s) : RecordInv u := by
  cases he with
  | start => exact recordInv_openCall s
  | raised op c _ hc => exact recordInv_latch s op hc
  | _ => exact h

/-- Settles O37: the invariant of `10_state.md` rule R34 holds at reset, and each effect of a command keeps it. -/
theorem stepsKeepTheErrorRecordInvariant : Obligations.StepsKeepTheErrorRecordInvariant :=
  ⟨fun inputs s hs => (resetMeetsTheInvariants inputs s hs).2.1,
    fun _ _ => step_keeps (fun _ _ _ _ => id) recordInv_reset Effect.recordInv⟩

/-! ## What ends a latched error (`60_exceptions.md` rule R168) -/

/-- The latch, the record and the counters of `t` are those of `s`. -/
abbrev SameCallState (t s : State) : Prop :=
  t.err = s.err ∧ t.errKind = s.errKind ∧ t.errCause = s.errCause ∧ t.errTag = s.errTag ∧ t.erroff = s.erroff ∧
  t.erriter = s.erriter ∧ t.idx = s.idx ∧ t.iter = s.iter

theorem SameCallState.refl (s : State) : SameCallState s s := ⟨rfl, rfl, rfl, rfl, rfl, rfl, rfl, rfl⟩

/-- While an error is latched, every command but `START` leaves the latch, the record and the counters. -/
theorem Effect.sameCallState (he : Effect s i u r) (hs : s.err = true) (hi : i ≠ .start) : SameCallState u s := by
  cases he with
  | start => exact absurd rfl hi
  | nextiter h => simp [h] at hs
  | element op d h => simp [h] at hs
  | raised op c h => simp [h] at hs
  | _ => exact SameCallState.refl s

section Formats

variable {c : Nat} {j : Instr}

theorem formatZ_eq_ok : formatZ c i = .ok j ↔ bits c 31 8 = 0 ∧ i = j := by
  unfold formatZ; split_ifs with h <;> simp [h]

theorem formatW_eq_ok {f : Nat → Instr} : formatW c f = .ok j ↔ bits c 31 16 = 0 ∧ f (bits c 15 8) = j := by
  unfold formatW; split_ifs with h <;> simp [h]

theorem formatC_eq_ok {f : Nat → Nat → Instr} :
    formatC c f = .ok j ↔ bits c 31 24 = 0 ∧ f (bits c 23 16) (bits c 15 8) = j := by
  unfold formatC; split_ifs with h <;> simp [h]

theorem formatR_eq_ok {f : Nat → Instr} : formatR c f = .ok j ↔ bits c 31 12 = 0 ∧ f (bits c 11 8) = j := by
  unfold formatR; split_ifs with h <;> simp [h]

end Formats

/-- A word that decodes to `START` has its opcode and zeros above it. -/
theorem bits_of_decode_start {c : CmdWord} (h : decode c = .ok .start) :
    bits c.toNat 7 0 = 4 ∧ bits c.toNat 31 8 = 0 := by
  unfold decode decodeNat at h
  split at h
  case h_5 hop => -- the row of opcode 4
    exact ⟨hop, (formatZ_eq_ok.mp h).1⟩
  all_goals simp [formatZ_eq_ok, formatW_eq_ok, formatC_eq_ok, formatR_eq_ok] at h

/-- `START` has one word (`30_encoding.md` rule R68). -/
theorem eq_encode_start {c : CmdWord} (h : decode c = .ok .start) : c = encode .start := by
  obtain ⟨hop, hzero⟩ := bits_of_decode_start h
  have hlt := c.isLt
  have henc : (encode .start).toNat = 4 := by decide
  simp only [bits] at hop hzero
  apply BitVec.eq_of_toNat_eq
  omega

/-- Settles O35, by what a step can do: only `START` and reset touch a latched error. -/
theorem onlyStartOrResetEndsALatchedError : Obligations.OnlyStartOrResetEndsALatchedError := by
  intro s t hs hstep
  rw [← hs]
  obtain ⟨-, rfl⟩ | ⟨rest, hp, -⟩ | ⟨c, d, rest, reason, -, -, rfl⟩ | ⟨c, d, rest, i, u, r, hp, hd, rfl, he⟩ :=
    step_next hstep
  case inl => exact .inl (SameCallState.refl _)
  case inr.inl => exact .inr (.inr ⟨rest, hp⟩)
  case inr.inr.inl => exact .inl (SameCallState.refl s)
  case inr.inr.inr =>
    by_cases hi : i = .start
    · subst hi
      exact .inr (.inl ⟨d, rest, eq_encode_start hd ▸ hp⟩)
    · exact .inl (he.sameCallState hs hi)

end Sys2Proof.Machine
end

section
/-! SUPPORT. The write table of `10_state.md` rule R36, a lemma for each row: what each register holds after a command, by
the command and its response. -/

namespace Sys2Proof.Machine

variable {s t u : State} {i : Instr} {r : Response}

/-! ## Which commands can give which response -/

@[simp] theorem isElement_instr (op : ElementOp) : isElement op.instr = true := by cases op <;> rfl

theorem instr_ne {op : ElementOp} (h : isElement i = false) : op.instr ≠ i := by
  rintro rfl
  simp at h

@[simp] theorem instr_ne_nop (op : ElementOp) : op.instr ≠ .nop := instr_ne rfl
@[simp] theorem instr_ne_inv (op : ElementOp) (w : Nat) : op.instr ≠ .inv w := instr_ne rfl
@[simp] theorem instr_ne_start (op : ElementOp) : op.instr ≠ .start := instr_ne rfl
@[simp] theorem instr_ne_nextiter (op : ElementOp) : op.instr ≠ .nextiter := instr_ne rfl
@[simp] theorem instr_ne_rdreg (op : ElementOp) (n : Nat) : op.instr ≠ .rdreg n := instr_ne rfl

theorem ne_of_runsWhileLatched {j : Instr} (hj : runsWhileLatched j = true) (hi : runsWhileLatched i = false) :
    i ≠ j := by
  rintro rfl
  simp [hi] at hj

/-- An error entry answers `CORRUPTION` or `CONFIG` (`60_exceptions.md` rule R163). -/
theorem Cause.resp_kind {c : Cause} (h : c ≠ .none) : c.kind.resp = .corruption ∨ c.kind.resp = .config := by
  cases c
  case none => exact absurd rfl h
  case range | divisibility | resultRange => exact .inl rfl
  all_goals exact .inr rfl

theorem Cause.resp_kind_ne_ok {c : Cause} (h : c ≠ .none) : c.kind.resp ≠ .ok := by
  rcases c.resp_kind h with h | h <;> simp [h]

theorem Cause.resp_kind_ne_aborted (c : Cause) : c.kind.resp ≠ .aborted := by cases c <;> decide

/-- The response of a command, given as what a next state adds, is the one of its effect. -/
theorem exec_response (h : exec i s = .next t) (hr : t.responses = s.responses ++ [r]) :
    ∃ u, t = u.respond r.resp r.dout ∧ Effect s i u r := by
  obtain ⟨u, r', rfl, he⟩ := exec_next h
  have heq : r' = r := by simpa [he.responses_eq] using hr
  exact ⟨u, heq ▸ rfl, heq ▸ he⟩

/-! ## The rows of the table -/

/-- Row `CFGOK`: a `CFG` sets it exactly when it succeeds. -/
theorem Effect.cfgok_iff_ok {win wout : Nat} (he : Effect s i u r) (hi : i = .cfg win wout) :
    u.cfgok = true ↔ r.resp = .ok := by
  cases he with
  | cfg => simp
  | cfgRejected => simp
  | refused _ _ hl => exact absurd hi (ne_of_runsWhileLatched rfl hl)
  | element op => exact absurd hi (instr_ne rfl)
  | raised op => exact absurd hi (instr_ne rfl)
  | _ => cases hi

/-- Row `CFGOK`: no other command writes it. -/
theorem Effect.cfgok_eq (he : Effect s i u r) (hi : ∀ win wout, i ≠ .cfg win wout) : u.cfgok = s.cfgok := by
  cases he with
  | cfg win wout => exact absurd rfl (hi win wout)
  | cfgRejected win wout => exact absurd rfl (hi win wout)
  | _ => rfl

/-- Rows `CFGW`, `A`, `AINV`: a successful `CFG` alone writes them. -/
theorem Effect.config_eq (he : Effect s i u r) (hi : ¬(r.resp = .ok ∧ ∃ win wout, i = .cfg win wout)) :
    u.win = s.win ∧ u.wout = s.wout ∧ u.a = s.a ∧ u.ainv = s.ainv := by
  cases he with
  | cfg win wout => exact absurd ⟨rfl, win, wout, rfl⟩ hi
  | _ => exact ⟨rfl, rfl, rfl, rfl⟩

/-- `din[63:0]` as a number (`42_arithmetic.md` rule R116). -/
theorem loadOperand_opd_eq_ofNat (s : State) : s.loadOperand.opd = BitVec.ofNat 64 (s.din.toNat % 2 ^ 64) :=
  BitVec.eq_of_toNat_eq (by simp)

/-- Row `OPD`: every `SETOP` writes it. -/
theorem Effect.opd_eq (he : Effect s i u r) :
    u.opd = if i = .setop then BitVec.ofNat 64 (s.din.toNat % 2 ^ 64) else s.opd := by
  cases he with
  | setop => exact loadOperand_opd_eq_ofNat s
  | refused _ _ hl => exact (if_neg (ne_of_runsWhileLatched rfl hl)).symm
  | element op => exact (if_neg (instr_ne rfl)).symm
  | raised op => exact (if_neg (instr_ne rfl)).symm
  | _ => rfl

/-- Row `IDX`: `START` and a successful `NEXTITER` zero it, a successful element command advances it. -/
theorem Effect.idx_eq (he : Effect s i u r) :
    u.idx = if i = .start ∨ i = .nextiter ∧ r.resp = .ok then 0
      else if isElement i = true ∧ r.resp = .ok then s.idx + 1 else s.idx := by
  cases he with
  | refused _ _ hl => simp [ne_of_runsWhileLatched (j := .start) rfl hl]
  | element op => simp
  | raised op c _ hc => simp [Cause.resp_kind_ne_ok hc]
  | _ => simp [isElement]

/-- Row `ITER`: `START` zeroes it, a successful `NEXTITER` counts it. -/
theorem Effect.iter_eq (he : Effect s i u r) :
    u.iter = if i = .start then 0 else if i = .nextiter ∧ r.resp = .ok then s.iter + 1 else s.iter := by
  cases he with
  | refused _ _ hl => simp [ne_of_runsWhileLatched (j := .start) rfl hl]
  | element op => simp
  | raised op => simp
  | _ => simp

/-- The command is an element command that answers with an error. -/
abbrev Raises (i : Instr) (r : Response) : Prop := isElement i = true ∧ (r.resp = .corruption ∨ r.resp = .config)

/-- Row `STATUS.ERR`: `START` clears the latch, an element command that answers with an error sets it. -/
theorem Effect.err_eq (he : Effect s i u r) :
    u.err = if i = .start then false else if Raises i r then true else s.err := by
  cases he with
  | refused _ _ hl => simp [ne_of_runsWhileLatched (j := .start) rfl hl]
  | element op => simp
  | raised op c _ hc => simp [Cause.resp_kind hc]
  | _ => simp [isElement]

/-- Row of the record: `START` zeroes it. -/
theorem Effect.record_of_start (he : Effect s i u r) (hi : i = .start) :
    u.errKind = .none ∧ u.errCause = .none ∧ u.errTag = 0 ∧ u.erroff = 0 ∧ u.erriter = 0 := by
  cases he with
  | start => exact ⟨rfl, rfl, rfl, rfl, rfl⟩
  | refused _ _ hl => exact absurd hi (ne_of_runsWhileLatched rfl hl)
  | element op => exact absurd hi (instr_ne_start op)
  | raised op => exact absurd hi (instr_ne_start op)
  | _ => cases hi

/-- The word of an element command holds its opcode alone (`30_encoding.md` rule R68). -/
theorem setWidth_encode_instr (op : ElementOp) : (encode op.instr).setWidth 8 = opcode op.instr := by
  cases op <;> decide

/-- Row of the record: the error entry writes it. -/
theorem Effect.record_of_raises (he : Effect s i u r) (hr : Raises i r) :
    u.errKind.resp = r.resp ∧ u.errCause.code.setWidth 128 = r.dout ∧ u.errTag = (encode i).setWidth 8 ∧
    u.erroff = s.idx ∧ u.erriter = s.iter := by
  cases he with
  | raised op => exact ⟨rfl, rfl, (setWidth_encode_instr op).symm, rfl, rfl⟩
  | _ => simp [Raises, isElement] at hr

/-- Row of the record: no other command writes it. -/
theorem Effect.record_eq (he : Effect s i u r) (hi : i ≠ .start) (hr : ¬Raises i r) :
    u.errKind = s.errKind ∧ u.errCause = s.errCause ∧ u.errTag = s.errTag ∧ u.erroff = s.erroff ∧
    u.erriter = s.erriter := by
  cases he with
  | start => exact absurd rfl hi
  | raised op c _ hc => exact absurd ⟨isElement_instr op, c.resp_kind hc⟩ hr
  | _ => exact ⟨rfl, rfl, rfl, rfl, rfl⟩

/-- A refused command, `NOP`, `INV` and `RDREG` write no register. -/
theorem Effect.eq_of_no_write (he : Effect s i u r)
    (h : r.resp = .aborted ∨ i = .nop ∨ (∃ w, i = .inv w) ∨ ∃ n, i = .rdreg n) : u = s := by
  cases he with
  | element op => simp at h
  | raised op c _ hc => simp [c.resp_kind_ne_aborted] at h
  | nop | inv | invRejected | rdreg | refused => rfl
  | _ => simp at h

theorem SameRegisters.refl (s : State) : SameRegisters s s :=
  ⟨rfl, rfl, rfl, rfl, rfl, rfl, rfl, rfl, rfl, rfl, rfl, rfl, rfl, rfl⟩

/-- Settles O33: each clause is a row of the table, and an illegal word only adds its response. -/
theorem onlyTheNamedCommandsWriteEachRegister : Obligations.OnlyTheNamedCommandsWriteEachRegister := by
  refine ⟨fun s t i r hex hr => ?_, fun s t c d rest reason hp hd hstep => ?_⟩
  · obtain ⟨u, rfl, he⟩ := exec_response hex hr
    exact ⟨fun _ _ => he.cfgok_iff_ok, he.cfgok_eq, he.config_eq, he.opd_eq, he.idx_eq, he.iter_eq, he.err_eq,
      he.record_of_start, fun hi hresp => he.record_of_raises ⟨hi, hresp⟩, he.record_eq,
      fun h => he.eq_of_no_write h ▸ SameRegisters.refl u⟩
  · rw [step_illegal hp hd] at hstep
    injection hstep with ht
    exact ht ▸ SameRegisters.refl s

end Sys2Proof.Machine
end

section
/-! SUPPORT. Decoding and encoding (`30_encoding.md` rules R66 to R74). The opcode and the zero bits of a word decide its
command up to the fields (`decode_eq_ok`, `decode_of_bits`), and they are what a row of the opcode map tests
(`selects_opcodeRow_iff`); the statements follow from these three. -/

namespace Sys2Proof

open Machine

variable {c : CmdWord} {i : Instr}

/-! ## The layout of a command -/

/-- The lowest of the bits above the fields, from which on a word of the format is zero (rules R68 to R71). -/
def Instr.zeroFrom : Instr → Nat
  | .inv _ => 16
  | .cfg _ _ => 24
  | .rdreg _ => 12
  | .nop | .setop | .start | .nextiter | .enc | .chk | .dec | .add | .sub | .mul | .div => 8

/-- The command of the same row with the fields that the word `c` holds (rules R68 to R71). -/
def Instr.withFieldsOf (c : Nat) : Instr → Instr
  | .inv _ => .inv (bits c 15 8)
  | .cfg _ _ => .cfg (bits c 23 16) (bits c 15 8)
  | .rdreg _ => .rdreg (bits c 11 8)
  | i => i

@[simp] theorem opcodeRow_withFieldsOf (c : Nat) (i : Instr) : opcodeRow (i.withFieldsOf c) = opcodeRow i := by
  cases i <;> rfl

theorem bits_lt (v hi lo : Nat) : bits v hi lo < 2 ^ (hi - lo + 1) := Nat.mod_lt _ (by positivity)

theorem wellFormed_withFieldsOf (c : Nat) (i : Instr) : WellFormed (i.withFieldsOf c) := by
  cases i with
  | inv => exact decide_eq_true (bits_lt c 15 8)
  | cfg => exact (Bool.and_eq_true _ _).mpr ⟨decide_eq_true (bits_lt c 23 16), decide_eq_true (bits_lt c 15 8)⟩
  | rdreg => exact decide_eq_true (bits_lt c 11 8)
  | _ => rfl

/-- Opcode, fields and zero bits are all of a word (rule R66). -/
theorem fieldBits_withFieldsOf {c : Nat} (hlt : c < 2 ^ 32) (hzero : bits c 31 i.zeroFrom = 0) :
    fieldBits (i.withFieldsOf c) + bits c 7 0 = c := by
  cases i <;> simp only [Instr.zeroFrom, Instr.withFieldsOf, fieldBits, bits] at hzero ⊢ <;> omega

/-! ## What decodes -/

/-- A word that decodes has the opcode, the zero bits and the fields of its command. -/
theorem decode_eq_ok (h : decode c = .ok i) :
    bits c.toNat 7 0 = (opcode i).toNat ∧ bits c.toNat 31 i.zeroFrom = 0 ∧ i.withFieldsOf c.toNat = i := by
  unfold decode decodeNat at h
  split at h
  case h_2 hop => -- the row of `INV`
    obtain ⟨hzero, rfl⟩ := formatW_eq_ok.mp h
    exact ⟨hop, hzero, rfl⟩
  case h_3 hop => -- the row of `CFG`
    obtain ⟨hzero, rfl⟩ := formatC_eq_ok.mp h
    exact ⟨hop, hzero, rfl⟩
  case h_7 hop => -- the row of `RDREG`
    obtain ⟨hzero, rfl⟩ := formatR_eq_ok.mp h
    exact ⟨hop, hzero, rfl⟩
  case h_15 => cases h
  all_goals -- the rows of format Z
    obtain ⟨hzero, rfl⟩ := formatZ_eq_ok.mp h
    exact ⟨‹_›, hzero, rfl⟩

/-- A word with the opcode and the zero bits of a command's format decodes, its fields being its own. -/
theorem decode_of_bits (hop : bits c.toNat 7 0 = (opcode i).toNat) (hzero : bits c.toNat 31 i.zeroFrom = 0) :
    decode c = .ok (i.withFieldsOf c.toNat) := by
  unfold decode decodeNat
  rw [hop]
  cases i with
  | inv => exact formatW_eq_ok.mpr ⟨hzero, rfl⟩
  | cfg => exact formatC_eq_ok.mpr ⟨hzero, rfl⟩
  | rdreg => exact formatR_eq_ok.mpr ⟨hzero, rfl⟩
  | _ => exact formatZ_eq_ok.mpr ⟨hzero, rfl⟩

/-- Settles O6, by the command's constructor. -/
theorem decodeOfEncodeIsTheCommand : Obligations.DecodeOfEncodeIsTheCommand := by
  intro i
  cases i with
  | nop => exact Laws.RoundTrip.nop
  | inv w => exact Laws.RoundTrip.inv w
  | cfg win wout => exact Laws.RoundTrip.cfg win wout
  | setop => exact Laws.RoundTrip.setop
  | start => exact Laws.RoundTrip.start
  | nextiter => exact Laws.RoundTrip.nextiter
  | rdreg r => exact Laws.RoundTrip.rdreg r
  | enc => exact Laws.RoundTrip.enc
  | chk => exact Laws.RoundTrip.chk
  | dec => exact Laws.RoundTrip.dec
  | add => exact Laws.RoundTrip.add
  | sub => exact Laws.RoundTrip.sub
  | mul => exact Laws.RoundTrip.mul
  | div => exact Laws.RoundTrip.div

/-- Settles O7: the command has the word's fields, and with the opcode they are all of the word. -/
theorem encodeOfDecodeIsTheWord : Obligations.EncodeOfDecodeIsTheWord := by
  intro c i h
  obtain ⟨hop, hzero, hfields⟩ := decode_eq_ok h
  have hsum := fieldBits_withFieldsOf c.isLt hzero
  rw [hfields, hop] at hsum
  exact ⟨hfields ▸ wellFormed_withFieldsOf c.toNat i, by rw [encode, hsum, BitVec.ofNat_toNat, BitVec.setWidth_eq]⟩

/-! ## The opcode map (rule R73) -/

/-- `c AND mask = match` says that row `row` of the opcode map selects `c` (rule R73). -/
abbrev Selects (row : OpcodeRow) (c : CmdWord) : Prop := c &&& row.maskBits = row.matchBits

/-- The bits of a word below 8 and from `k` on. -/
def outerMask (k : Nat) : CmdWord := (BitVec.allOnes 8).setWidth 32 ||| BitVec.allOnes 32 <<< k

theorem opcodeRow_maskBits (i : Instr) : (opcodeRow i).maskBits = outerMask i.zeroFrom := by
  cases i with
  | inv => exact (by decide : (0xFFFF00FF : CmdWord) = outerMask 16)
  | cfg => exact (by decide : (0xFF0000FF : CmdWord) = outerMask 24)
  | rdreg => exact (by decide : (0xFFFFF0FF : CmdWord) = outerMask 12)
  | _ => exact (by decide : (0xFFFFFFFF : CmdWord) = outerMask 8)

theorem opcodeRow_matchBits (i : Instr) : (opcodeRow i).matchBits = (opcode i).setWidth 32 := by
  cases i <;> rfl

theorem getLsbD_outerMask {k n : Nat} (hn : n < 32) :
    (outerMask k).getLsbD n = (decide (n < 8) || decide (k ≤ n)) := by
  simp only [outerMask, BitVec.getLsbD_or, BitVec.getLsbD_setWidth, BitVec.getLsbD_allOnes, BitVec.getLsbD_shiftLeft]
  grind

theorem getLsbD_and_outerMask (c : CmdWord) (k n : Nat) :
    (c &&& outerMask k).getLsbD n = (c.getLsbD n && (decide (n < 8) || decide (k ≤ n))) := by
  rw [BitVec.getLsbD_and]
  by_cases hn : n < 32
  · rw [getLsbD_outerMask hn]
  · rw [BitVec.getLsbD_of_ge c n (by omega), Bool.false_and, Bool.false_and]

/-- The mask of a row compares the opcode's bits and those from `k` on. -/
theorem and_outerMask_eq_iff {k : Nat} (hk : 8 ≤ k) {op : Byte} :
    c &&& outerMask k = op.setWidth 32 ↔ c.setWidth 8 = op ∧ c >>> k = 0 := by
  constructor
  · intro h
    have hbit (n : Nat) : (c.getLsbD n && (decide (n < 8) || decide (k ≤ n))) = (op.setWidth 32).getLsbD n := by
      rw [← h, getLsbD_and_outerMask]
    constructor <;> refine BitVec.eq_of_getLsbD_eq fun n hn => ?_
    · simpa [hn, show n < 32 by omega] using hbit n
    · simpa [BitVec.getLsbD_of_ge op (k + n) (by omega)] using hbit (k + n)
  · rintro ⟨rfl, h⟩
    refine BitVec.eq_of_getLsbD_eq fun n hn => ?_
    rw [getLsbD_and_outerMask, BitVec.getLsbD_setWidth, BitVec.getLsbD_setWidth]
    by_cases hkn : k ≤ n
    · have hhigh : c.getLsbD n = false := by
        simpa [hkn] using congrArg (fun v : CmdWord => v.getLsbD (n - k)) h
      simp [hhigh]
    · simp [hkn, hn, Bool.and_comm]

/-- The bits of a word from `k` on, as a shift and as a number. -/
theorem ushiftRight_eq_zero_iff_bits {k : Nat} (hk : k ≤ 31) : c >>> k = 0 ↔ bits c.toNat 31 k = 0 := by
  have hlt : c.toNat / 2 ^ k < 2 ^ (31 - k + 1) := by
    rw [Nat.div_lt_iff_lt_mul (by positivity), ← pow_add, show 31 - k + 1 + k = 32 by omega]
    exact c.isLt
  simp [BitVec.toNat_eq, Nat.shiftRight_eq_div_pow, bits, Nat.mod_eq_of_lt hlt]

theorem zeroFrom_bounds (i : Instr) : 8 ≤ i.zeroFrom ∧ i.zeroFrom ≤ 31 := by cases i <;> simp [Instr.zeroFrom]

/-- A row of the opcode map tests the opcode and the zero bits of its format. -/
theorem selects_opcodeRow_iff :
    Selects (opcodeRow i) c ↔ bits c.toNat 7 0 = (opcode i).toNat ∧ bits c.toNat 31 i.zeroFrom = 0 := by
  obtain ⟨hlo, hhi⟩ := zeroFrom_bounds i
  have hop : c.setWidth 8 = opcode i ↔ bits c.toNat 7 0 = (opcode i).toNat := by
    simp [BitVec.toNat_eq, bits]
  rw [Selects, opcodeRow_maskBits, opcodeRow_matchBits, and_outerMask_eq_iff hlo, hop, ushiftRight_eq_zero_iff_bits hhi]

theorem opcodeRow_mem_opcodeTable (i : Instr) : opcodeRow i ∈ opcodeTable := by
  cases i <;> simp [opcodeTable, opcodeRow]

/-- Every row of the opcode map is the row of a command. -/
theorem exists_opcodeRow_eq {row : OpcodeRow} (h : row ∈ opcodeTable) : ∃ i, opcodeRow i = row := by
  rw [opcodeTable, ← List.map_append] at h
  obtain ⟨i, -, hi⟩ := List.mem_map.mp h
  exact ⟨i, hi⟩

/-- A word that selects the row of a command decodes to a command of that row. -/
theorem decode_of_selects (h : Selects (opcodeRow i) c) : decode c = .ok (i.withFieldsOf c.toNat) := by
  obtain ⟨hop, hzero⟩ := selects_opcodeRow_iff.mp h
  exact decode_of_bits hop hzero

/-- A word that decodes selects the row of its command. -/
theorem selects_of_decode (h : decode c = .ok i) : Selects (opcodeRow i) c := by
  obtain ⟨hop, hzero, -⟩ := decode_eq_ok h
  exact selects_opcodeRow_iff.mpr ⟨hop, hzero⟩

/-- Settles O8: selecting a row is decoding to a command of that row, and a word decodes to one command. -/
theorem legalWordsAreThoseOfTheOpcodeMap : Obligations.LegalWordsAreThoseOfTheOpcodeMap := by
  refine ⟨fun c => ⟨?_, ?_⟩, fun c i => selects_of_decode, ?_⟩
  · rintro ⟨i, hi⟩
    exact ⟨opcodeRow i, opcodeRow_mem_opcodeTable i, selects_of_decode hi⟩
  · rintro ⟨row, hrow, hsel⟩
    obtain ⟨i, rfl⟩ := exists_opcodeRow_eq hrow
    exact ⟨_, decode_of_selects hsel⟩
  · intro c row hrow row' hrow' hsel hsel'
    obtain ⟨i, rfl⟩ := exists_opcodeRow_eq hrow
    obtain ⟨j, rfl⟩ := exists_opcodeRow_eq hrow'
    have hij : i.withFieldsOf c.toNat = j.withFieldsOf c.toNat :=
      Except.ok.inj ((decode_of_selects hsel).symm.trans (decode_of_selects hsel'))
    simpa using congrArg opcodeRow hij

/-- Settles O9: the seven words are evaluated. -/
theorem wordsOfTheSpecDecode : Obligations.WordsOfTheSpecDecode := by
  unfold Obligations.WordsOfTheSpecDecode
  decide

/-- Settles O10: what a step does with a command whose word decodes. -/
theorem stepRunsTheDecodedCommand : Obligations.StepRunsTheDecodedCommand :=
  fun _ _ _ _ _ => step_command

end Sys2Proof
end

section
/-! SUPPORT. What `dout` carries with each response code (`30_encoding.md` rule R76), read off the effect of a command. -/

namespace Sys2Proof.Machine

variable {s u : State} {i : Instr} {r : Response}

/-- Each check of `CFG` that fails names a cause of kind `CONFIG` (`41_codec.md` rule R96). -/
theorem kind_of_configFault {win wout d : Nat} {c : Cause} (h : configFault win wout d = some c) :
    c.kind = .config := by
  unfold configFault at h
  split_ifs at h <;> cases h <;> rfl

/-- A cause of kind `CONFIG` is a cause that an answer `CONFIG` carries. -/
theorem ne_none_and_resp_of_kind_config {c : Cause} (h : c.kind = .config) :
    c ≠ .none ∧ c.kind.resp = .config := by
  refine ⟨?_, congrArg ErrKind.resp h⟩
  rintro rfl
  cases h

/-- With `CORRUPTION` and `CONFIG` `dout` carries a cause of that kind (`60_exceptions.md` rule R156). -/
theorem Effect.dout_of_error (he : Effect s i u r) (h : r.resp = .corruption ∨ r.resp = .config) :
    ∃ cause : Cause, cause ≠ .none ∧ cause.kind.resp = r.resp ∧ r.dout = cause.code.setWidth 128 := by
  cases he with
  | invRejected w c hc =>
    have hkind : c.kind = .config := by rcases hc with rfl | rfl <;> rfl
    obtain ⟨hne, hresp⟩ := ne_none_and_resp_of_kind_config hkind
    exact ⟨c, hne, hresp, rfl⟩
  | cfgRejected win wout c hf =>
    obtain ⟨hne, hresp⟩ := ne_none_and_resp_of_kind_config (kind_of_configFault hf)
    exact ⟨c, hne, hresp, rfl⟩
  | raised op c _ hc => exact ⟨c, hc, rfl, rfl⟩
  | _ => simp at h

/-- A refusal carries 0 (`60_exceptions.md` rule R165). -/
theorem Effect.dout_of_aborted (he : Effect s i u r) (h : r.resp = .aborted) : r.dout = 0 := by
  cases he with
  | refused => rfl
  | raised op c => exact absurd h c.resp_kind_ne_aborted
  | _ => cases h

theorem Cause.resp_kind_ne_illegal (c : Cause) : c.kind.resp ≠ .illegal := by cases c <;> decide

/-- `ILLEGAL` answers no command (`60_exceptions.md` rule R166). -/
theorem Effect.resp_ne_illegal (he : Effect s i u r) : r.resp ≠ .illegal := by
  cases he with
  | raised op c => exact c.resp_kind_ne_illegal
  | _ => exact RespCode.noConfusion

/-- `CHK` delivers no value (`41_codec.md` rule R103). -/
theorem eq_zero_of_chkElement_ok {v d : Nat} (h : chkElement s v = .ok d) : d = 0 := by
  unfold chkElement at h
  split at h <;> cases h
  rfl

/-- The five commands that deliver no result answer `OK` with 0. -/
theorem Effect.dout_of_ok (he : Effect s i u r) (h : r.resp = .ok) (hi : hasNoResult i = true) : r.dout = 0 := by
  cases he with
  | element op d _ _ hr =>
    cases op
    case chk => exact congrArg (BitVec.ofNat 128) (eq_zero_of_chkElement_ok hr)
    all_goals cases hi
  | raised op c _ hc => exact absurd h (Cause.resp_kind_ne_ok hc)
  | nop | setop | start | nextiter | refused => rfl
  | _ => cases hi

/-- Settles O13: each clause holds of every way a command can end. -/
theorem errorResponsesCarryTheCause : Obligations.ErrorResponsesCarryTheCause := by
  intro s t i r hex hr
  obtain ⟨u, -, he⟩ := exec_response hex hr
  exact ⟨he.dout_of_error, he.dout_of_aborted, he.resp_ne_illegal, he.dout_of_ok⟩

end Sys2Proof.Machine
end

section
/-! SUPPORT. `INV` (`40_solver.md` rule R87): one equation for each outcome of its two tests, from which its result, its
rejections and its independence of the registers are read off. -/

namespace Sys2Proof.Machine

variable {s : State} {w : Nat}

/-- The width test comes first, whatever the parity. -/
theorem exec_inv_of_unsupported_width (hw : w = 0 ∨ 127 < w) : exec (.inv w) s = .next (s.respond .config 6) :=
  if_pos hw

theorem exec_inv_of_supported_width (hpos : 1 ≤ w) (hmax : w ≤ 127) :
    exec (.inv w) s =
      if s.din.toNat % 2 = 0 then .next (s.respond .config 4) else complete (modinv s.din.toNat w) s := by
  have hw : ¬(w = 0 ∨ Config.wmaxSolver < w) := by
    rw [Config.wmaxSolver]
    omega
  rw [exec, execInv, if_neg hw, bits_zero_zero]
  rfl

theorem exec_inv_of_even (hpos : 1 ≤ w) (hmax : w ≤ 127) (heven : s.din.toNat % 2 = 0) :
    exec (.inv w) s = .next (s.respond .config 4) := by
  rw [exec_inv_of_supported_width hpos hmax, if_pos heven]

theorem exec_inv_of_odd (hpos : 1 ≤ w) (hmax : w ≤ 127) (hodd : s.din.toNat % 2 = 1) :
    exec (.inv w) s = .next (s.respond .ok (BitVec.ofNat 128 (modinv s.din.toNat w))) := by
  rw [exec_inv_of_supported_width hpos hmax, if_neg (by omega), complete]

/-- Settles O19: the number is `modinv`, which is in range, an inverse, and the only one. -/
theorem invReturnsTheInverse : Obligations.InvReturnsTheInverse := by
  intro s w hpos hmax hodd
  exact ⟨modinv s.din.toNat w, modinv_lt _ _, modinv_mul hodd hpos, fun _ => eq_modinv hodd hpos,
    exec_inv_of_odd hpos hmax hodd⟩

/-- Settles O20: a rejection leaves the state as it is but for its response. -/
theorem invRejectsWidthThenParity : Obligations.InvRejectsWidthThenParity :=
  fun _ _ => ⟨exec_inv_of_unsupported_width, exec_inv_of_even⟩

/-- Settles O21: in each of the three outcomes the tests and the response read `w` and `din` alone. -/
theorem invIsAFunctionOfItsOperands : Obligations.InvIsAFunctionOfItsOperands := by
  intro s s' w hdin
  by_cases hw : w = 0 ∨ 127 < w
  · exact ⟨_, exec_inv_of_unsupported_width hw, exec_inv_of_unsupported_width hw⟩
  · have hpos : 1 ≤ w := by omega
    have hmax : w ≤ 127 := by omega
    obtain heven | hodd := Nat.mod_two_eq_zero_or_one s.din.toNat
    · exact ⟨_, exec_inv_of_even hpos hmax heven, exec_inv_of_even hpos hmax (hdin ▸ heven)⟩
    · refine ⟨_, exec_inv_of_odd hpos hmax hodd, ?_⟩
      rw [hdin] at hodd ⊢
      exact exec_inv_of_odd hpos hmax hodd

end Sys2Proof.Machine
end

section
/-! SUPPORT. `CFG` (`41_codec.md` rules R96, R97): one equation for each outcome of its checks, and the number of the cause
that the first failing check gives. -/

namespace Sys2Proof.Machine

variable {s : State} {win wout : Nat}

theorem exec_cfg_of_pass (h : configFault win wout s.din.toNat = none) :
    exec (.cfg win wout) s =
      complete (modinv s.din.toNat wout) (s.install win wout s.din.toNat (modinv s.din.toNat wout)) := by
  rw [exec, execCfg, dataOperand, h]

theorem exec_cfg_of_fault {c : Cause} (h : configFault win wout s.din.toNat = some c) :
    exec (.cfg win wout) s = .next (s.unconfigure.respond .config (c.code.setWidth 128)) := by
  rw [exec, execCfg, dataOperand, h]
  rfl

/-- Settles O22: what is installed is exact because the checks bound it. -/
theorem cfgInstallsTheConfiguration : Obligations.CfgInstallsTheConfiguration := by
  intro s win wout hwin hle hpos hmax hodd hne hfit
  have hpass : configFault win wout s.din.toNat = none :=
    configFault_eq_none.mpr ⟨⟨hpos, hmax⟩, ⟨hwin, hle⟩, hodd, hne, hfit⟩
  exact ⟨modinv s.din.toNat wout, modinv_lt _ _, modinv_mul hodd hpos, _, exec_cfg_of_pass hpass, rfl,
    install_toNat s hpass⟩

/-- The checks of rule R96 in their order, by the numbers of their causes (`60_exceptions.md` rule R156); 0 when all pass. -/
theorem configFault_code (win wout d : Nat) :
    (configFault win wout d).elim 0 (fun c => c.code.toNat) =
      if wout = 0 ∨ 64 < wout then 6
      else if win = 0 ∨ wout < win then 5
      else if d % 2 = 0 then 4
      else if d = 1 then 5
      else if 2 ^ wout - 1 < (2 ^ win - 1) * d then 5
      else 0 := by
  simp only [configFault, Config.wmaxCodec, bits_zero_zero]
  split_ifs <;> rfl

/-- Settles O23: a cause that is not 0 is that of the failing check. -/
theorem cfgFailureClearsCfgok : Obligations.CfgFailureClearsCfgok := by
  intro s win wout cause hcause hne
  rw [← configFault_code] at hcause
  cases hf : configFault win wout s.din.toNat with
  | none =>
    rw [hf] at hcause
    exact absurd hcause hne
  | some c =>
    rw [hf, Option.elim_some] at hcause
    rw [exec_cfg_of_fault hf, hcause, BitVec.ofNat_toNat]
    rfl

end Sys2Proof.Machine
end

section
/-! SUPPORT. The element commands with no error latched (`41_codec.md` rule R98): one equation for a result and one for an
error, in the fields that change; then the results and errors of `ENC`, `CHK` and `DEC` (rules R100 to R107). -/

namespace Sys2Proof.Machine

variable {s : State}

/-! ## The two outcomes in a configured state -/

/-- `IDX` advances modulo `2^64` (`10_state.md` rule R29). -/
theorem idx_add_one (s : State) : s.idx + 1 = BitVec.ofNat 64 ((s.idx.toNat + 1) % 2 ^ 64) :=
  BitVec.eq_of_toNat_eq (by simp [BitVec.toNat_add])

theorem exec_elementOp_ok (op : ElementOp) {d : Nat} (hc : s.cfgok = true) (he : s.err = false)
    (hr : elementResult op s s.din.toNat = .ok d) :
    exec op.instr s = .next
      { s with
        idx := BitVec.ofNat 64 ((s.idx.toNat + 1) % 2 ^ 64),
        responses := s.responses ++ [⟨.ok, BitVec.ofNat 128 d⟩] } := by
  rw [exec_elementOp, dataOperand, hr, elementCommand_ok he hc, ← idx_add_one]
  rfl

/-- An element command whose function gives a value that fits `dout` answers `OK` with it. -/
theorem exists_answersOk (op : ElementOp) {d : Data} (hc : s.cfgok = true) (he : s.err = false)
    (hr : elementResult op s s.din.toNat = .ok d.toNat) : ∃ t, AnswersOk op.instr s t d :=
  ⟨_, exec_elementOp_ok op hc he hr, by simp⟩

theorem exec_elementOp_error (op : ElementOp) {c : Cause} (hc : s.cfgok = true) (he : s.err = false)
    (hr : elementResult op s s.din.toNat = .error c) :
    exec op.instr s = .next
      { s with
        err := true, errKind := c.kind, errCause := c, errTag := (encode op.instr).setWidth 8,
        erroff := s.idx, erriter := s.iter, responses := s.responses ++ [⟨c.kind.resp, c.code.setWidth 128⟩] } := by
  rw [exec_elementOp, dataOperand, hr, elementCommand_error he hc, setWidth_encode_instr]
  rfl

/-! ## The element functions of `CHK` and `DEC` -/

theorem chkElement_ok {v : Nat} (hv : v < modulus s) (hd : decodedValue s v ≤ dMax s) : chkElement s v = .ok 0 := by
  rw [chkElement, laneFault_none hv hd]

theorem decElement_ok {v : Nat} (hv : v < modulus s) (hd : decodedValue s v ≤ dMax s) :
    decElement s v = .ok (decodedValue s v) := by
  rw [decElement, laneFault_none hv hd]

theorem chkElement_range {v : Nat} (hv : v < modulus s) (hd : dMax s < decodedValue s v) :
    chkElement s v = .error .range := by
  rw [chkElement, laneFault_range hv hd]

theorem decElement_range {v : Nat} (hv : v < modulus s) (hd : dMax s < decodedValue s v) :
    decElement s v = .error .range := by
  rw [decElement, laneFault_range hv hd]

/-! ## Results and errors -/

/-- Settles O24: the product fits by rule R101, and `ENC` does not reduce it. -/
theorem encDeliversTheExactProduct : Obligations.EncDeliversTheExactProduct :=
  fun _ hinv hc he hx => ⟨encodedValue_lt hinv hc hx, exec_elementOp_ok .enc hc he (encElement_ok hx)⟩

/-- Settles O25: both tests of `CHK` pass. -/
theorem chkPassesAValidValue : Obligations.ChkPassesAValidValue :=
  fun _ hc he hv hd => exec_elementOp_ok .chk hc he (chkElement_ok hv hd)

/-- Settles O26: both tests of `DEC` pass. -/
theorem decDeliversTheDecodedValue : Obligations.DecDeliversTheDecodedValue :=
  fun _ _ hc he hv hd => exec_elementOp_ok .dec hc he (decElement_ok hv hd)

/-- Settles O31: `CHK` and `DEC` fail by the same range test, and the error entry records it. -/
theorem corruptionIsRecordedAtItsOffset : Obligations.CorruptionIsRecordedAtItsOffset := by
  rintro s i (rfl | rfl) hc he hv hd
  · exact exec_elementOp_error .chk hc he (chkElement_range hv hd)
  · exact exec_elementOp_error .dec hc he (decElement_range hv hd)

/-- Settles O32: the prologue reads `CFGOK` alone, and the element function the configuration and `OPD`. -/
theorem elementResponseIgnoresPosition : Obligations.ElementResponseIgnoresPosition := by
  intro s s' op hcfg hopd hdin he he'
  have hresult : elementResult op s' s'.din.toNat = elementResult op s s.din.toNat := by
    rw [hdin, elementResult_congr hcfg hopd]
  have hcfgok : s'.cfgok = s.cfgok := hcfg.1.symm
  cases hc : s.cfgok with
  | false =>
    have hc' : s'.cfgok = false := hcfgok.trans hc
    exact ⟨_, _, _, (exec_elementOp op s).trans (elementCommand_unconfigured he hc),
      (exec_elementOp op s').trans (elementCommand_unconfigured he' hc'), rfl, rfl⟩
  | true =>
    have hc' : s'.cfgok = true := hcfgok.trans hc
    cases hr : elementResult op s s.din.toNat with
    | ok d => exact ⟨_, _, _, exec_elementOp_ok op hc he hr, exec_elementOp_ok op hc' he' (hresult.trans hr), rfl, rfl⟩
    | error c =>
      exact ⟨_, _, _, exec_elementOp_error op hc he hr, exec_elementOp_error op hc' he' (hresult.trans hr), rfl, rfl⟩

/-! ## The code words (`41_codec.md` rules R95, R105) -/

/-- `CHK` of a value in `[0, M)` answers `OK` exactly when the value is valid. -/
theorem chk_answersOk_iff (hc : s.cfgok = true) (he : s.err = false) (hv : s.din.toNat < modulus s) :
    (∃ t d, AnswersOk .chk s t d) ↔ decodedValue s s.din.toNat ≤ dMax s := by
  refine ⟨?_, fun hd => ⟨_, _, chkPassesAValidValue s hc he hv hd, rfl⟩⟩
  rintro ⟨t, d, hexec, hresp⟩
  by_contra hd
  have hcorrupt := corruptionIsRecordedAtItsOffset s .chk (.inl rfl) hc he hv (not_le.mp hd)
  rw [hexec] at hcorrupt
  injection hcorrupt with ht
  simp [ht] at hresp

/-- A value of `[0, M)` is valid exactly when it is the encoding of a legal raw value. -/
theorem decodedValue_le_dMax_iff (hinv : ConfigInv s) (hc : s.cfgok = true) {v : Nat} (hv : v < modulus s) :
    decodedValue s v ≤ dMax s ↔ ∃ x ≤ dMax s, v = encodedValue s x := by
  constructor
  · intro hd
    have hback := decodedValue_mul_a hinv hc hv
    exact ⟨decodedValue s v, hd, hback.symm.trans (Nat.mod_eq_of_lt (encodedValue_lt hinv hc hd))⟩
  · rintro ⟨x, hx, rfl⟩
    rwa [decodedValue_encodedValue hinv hc hx]

/-- Settles O40, from the two descriptions of validity and from decoding undoing encoding. -/
theorem chkAcceptsExactlyTheCodeWords : Obligations.ChkAcceptsExactlyTheCodeWords :=
  fun _ hinv hc he hv =>
    ⟨(chk_answersOk_iff hc he hv).symm, decodedValue_le_dMax_iff hinv hc hv,
      fun _ => decodedValue_encodedValue hinv hc⟩

/-- `DEC` of the encoding of a legal raw value `x` answers `(OK, x)`, and `CHK` answers `(OK, 0)`. -/
theorem dec_and_chk_of_codeWord (hinv : ConfigInv s) (hc : s.cfgok = true) (he : s.err = false) {x : Data}
    (hx : x.toNat ≤ dMax s) (hword : s.din.toNat = encodedValue s x.toNat) :
    (∃ t, AnswersOk .dec s t x) ∧ ∃ t, AnswersOk .chk s t 0 := by
  have hv : s.din.toNat < modulus s := hword.trans_lt (encodedValue_lt hinv hc hx)
  have hd : decodedValue s s.din.toNat = x.toNat := by rw [hword, decodedValue_encodedValue hinv hc hx]
  have hvalid := hd.trans_le hx
  exact ⟨exists_answersOk .dec hc he ((decElement_ok hv hvalid).trans (congrArg _ hd)),
    exists_answersOk .chk hc he (chkElement_ok hv hvalid)⟩

/-- Settles O42: what `ENC` delivers fits `dout`, so it is a code word on `din` of the later commands. -/
theorem decodeOfEncodedValueIsTheValue : Obligations.DecodeOfEncodedValueIsTheValue := by
  intro s hinv hc he hx
  obtain ⟨hlt, henc⟩ := encDeliversTheExactProduct s hinv hc he hx
  refine ⟨_, _, ⟨henc, rfl⟩, dec_and_chk_of_codeWord ?_ ?_ ?_ ?_ ?_⟩
  exacts [hinv, hc, he, hx, Nat.mod_eq_of_lt (lt_of_lt_modulus hinv hc hlt)]

end Sys2Proof.Machine
end

section
/-! SUPPORT. A pass over a buffer (`41_codec.md` rule R106): as long as no error is latched, `IDX` counts the element
commands of the pass and `ITER` stands. -/

namespace Sys2Proof.Machine

/-- A run of `k + n` steps is a run of `k` and then one of `n`. -/
theorem core_run_add (m : Host.Core) {k : Nat} (n : Nat) {s t : m.State} (h : m.run k s = .next t) :
    m.run (k + n) s = m.run n t := by
  induction k generalizing s with
  | zero =>
    injection h with h
    rw [h, Nat.zero_add]
  | succ k ih =>
    rw [Nat.succ_add]
    cases hs : m.step s with
    | next s' =>
      rw [core_run_succ m k hs] at h
      rw [core_run_succ m (k + n) hs, ih h]
    | fault => simp [Host.Core.run, hs] at h
    | refused => simp [Host.Core.run, hs] at h

variable {s t u : State}

/-- A command of a pass that leaves no error latched found none latched, and advances `IDX` if it is an element command. -/
theorem Effect.counters_of_unlatched {i : Instr} {r : Response} (he : Effect s i u r) (hstart : i ≠ .start)
    (hnext : i ≠ .nextiter) (hu : u.err = false) :
    s.err = false ∧ u.idx = s.idx + BitVec.ofNat 64 (if isElement i then 1 else 0) ∧ u.iter = s.iter := by
  cases he with
  | start => exact absurd rfl hstart
  | nextiter => exact absurd rfl hnext
  | refused _ hs => simp [hs] at hu
  | raised op => simp at hu
  | element op d hs => simp [hs]
  | _ => simpa [isElement] using hu

/-- A step takes the next command of a pass, and moves the counters as it says if it leaves no error latched. -/
theorem step_of_pass {i : Instr} {d : Data} {rest : List HostInput} (hi : WellFormed i) (hstart : i ≠ .start)
    (hnext : i ≠ .nextiter) (hp : s.pending = issue i d :: rest) :
    ∃ u, step s = .next u ∧ u.pending = rest ∧ (u.err = false →
      s.err = false ∧ u.idx = s.idx + BitVec.ofNat 64 (if isElement i then 1 else 0) ∧ u.iter = s.iter) := by
  obtain ⟨u, r, hexec, he⟩ := exec_effect i (s.accept d rest)
  exact ⟨u.respond r.resp r.dout, (step_command hp (decodeOfEncodeIsTheCommand i hi)).trans hexec, he.pending_eq,
    he.counters_of_unlatched hstart hnext⟩

theorem inOnePass_cons {p : Instr × Data} {cs : List (Instr × Data)} :
    inOnePass (p :: cs) = true ↔ WellFormed p.1 ∧ p.1 ≠ .start ∧ p.1 ≠ .nextiter ∧ inOnePass cs = true := by
  simp [inOnePass, and_assoc]

/-- The commands of a pass that end with no error latched are taken in turn, `IDX` counts the element commands among them,
and `ITER` stands; the latch was clear from the first on, for only `START` clears it. -/
theorem run_pass {cs : List (Instr × Data)} {rest : List HostInput} (hpass : inOnePass cs = true)
    (hp : s.pending = cs.map (fun p => issue p.1 p.2) ++ rest) (hrun : core.run cs.length s = .next t)
    (ht : t.err = false) :
    s.err = false ∧ t.pending = rest ∧ t.idx = s.idx + BitVec.ofNat 64 (cs.countP fun p => isElement p.1) ∧
    t.iter = s.iter := by
  induction cs generalizing s with
  | nil =>
    injection hrun with hst
    subst hst
    exact ⟨ht, hp, by simp, rfl⟩
  | cons p cs ih =>
    obtain ⟨hwf, hstart, hnext, htail⟩ := inOnePass_cons.mp hpass
    obtain ⟨s', hstep, hp', hcount⟩ := step_of_pass hwf hstart hnext hp
    obtain ⟨he', hrest, hidx, hiter⟩ := ih htail hp' ((run_succ cs.length hstep).symm.trans hrun)
    obtain ⟨he, hidx', hiter'⟩ := hcount he'
    refine ⟨he, hrest, ?_, hiter.trans hiter'⟩
    rw [hidx, hidx', List.countP_cons, Nat.add_comm, BitVec.ofNat_add, BitVec.add_assoc]

/-- Settles O47: at the end of the pass's commands `IDX` is their count, and the next step records it as the offset. -/
theorem corruptionIsFlaggedAtItsExactOffset : Obligations.CorruptionIsFlaggedAtItsExactOffset := by
  intro s t cs i v rest hi hpass hidx0 hp hrun hc he hv hd
  obtain ⟨-, hpending, hidx, hiter⟩ := run_pass hpass hp hrun he
  have hwf : WellFormed i := by rcases hi with rfl | rfl <;> rfl
  have hstep : step t = exec i (t.accept v rest) := step_command hpending (decodeOfEncodeIsTheCommand i hwf)
  have hcorrupt := corruptionIsRecordedAtItsOffset (t.accept v rest) i hi hc he hv hd
  have hoffset : t.idx = BitVec.ofNat 64 (cs.countP fun p => isElement p.1) := by
    rw [hidx, hidx0, zero_add]
  exact ⟨_, (core_run_add core 1 hrun).trans (run_succ 0 (hstep.trans hcorrupt)), rfl, rfl, hoffset, hiter⟩

end Sys2Proof.Machine
end

section
/-! SUPPORT. The checked arithmetic unit (`42_arithmetic.md`): the results of `ADD`, `SUB`, `MUL` and `DIV` on a valid value
with a legal operand (rules R119 to R122), then the same results on the encoding of a raw value (rules R123, R124). -/

namespace Sys2Proof.Machine

variable {s : State}

/-- Settles O18: `SETOP` is the load of the operand and the response, with no test. -/
theorem setopLoadsTheOperand : Obligations.SetopLoadsTheOperand := by
  refine ⟨by decide, fun s => ?_⟩
  rw [← loadOperand_opd_eq_ofNat]
  rfl

/-! ## Results on a valid value (rules R119 to R122) -/

section ValidValue

variable {v : Nat}

theorem addElement_ok (hv : Valid s v) (hy : s.opd.toNat ≤ dMax s) :
    addElement s v = .ok ((v + encodedValue s s.opd.toNat) % modulus s) :=
  arithElement_pass hv.1 hy nofun hv.2

theorem subElement_ok (hv : Valid s v) (hy : s.opd.toNat ≤ dMax s) :
    subElement s v = .ok (((v : Int) - encodedValue s s.opd.toNat) % (modulus s : Int)).toNat :=
  arithElement_pass hv.1 hy nofun hv.2

theorem mulElement_ok (hv : Valid s v) (hy : s.opd.toNat ≤ dMax s) :
    mulElement s v = .ok (v * s.opd.toNat % modulus s) :=
  arithElement_pass hv.1 hy nofun hv.2

theorem quotient_ok (hr : v % s.opd.toNat = 0) (hq : decodedValue s (v / s.opd.toNat) ≤ dMax s) :
    quotient s v = .ok (v / s.opd.toNat) := by
  rw [quotient, if_neg (not_not.mpr hr), if_neg (not_lt.mpr hq)]

theorem divElement_ok (hv : Valid s v) (hy : s.opd.toNat ≤ dMax s) (h0 : s.opd.toNat ≠ 0) (hr : v % s.opd.toNat = 0)
    (hq : decodedValue s (v / s.opd.toNat) ≤ dMax s) : divElement s v = .ok (v / s.opd.toNat) :=
  (arithElement_pass hv.1 hy (fun _ => h0) hv.2).trans (quotient_ok hr hq)

end ValidValue

/-- Settles O27: the three tests pass, and none of the three commands checks its result. -/
theorem addSubMulDeliverTheReducedResult : Obligations.AddSubMulDeliverTheReducedResult := by
  intro s _ hc he hv hy hd
  have hvalid : Valid s s.din.toNat := ⟨hv, hd⟩
  have hsub := exec_elementOp_ok .sub hc he (subElement_ok hvalid hy)
  rw [encodedValue, modulus, Nat.cast_mul, Nat.cast_pow] at hsub
  exact ⟨exec_elementOp_ok .add hc he (addElement_ok hvalid hy), hsub,
    exec_elementOp_ok .mul hc he (mulElement_ok hvalid hy)⟩

/-- Settles O28: the operand tests and the two result tests of `DIV` pass. -/
theorem divDeliversTheExactQuotient : Obligations.DivDeliversTheExactQuotient :=
  fun _ hc he hv hy h0 hd hr hq => exec_elementOp_ok .div hc he (divElement_ok ⟨hv, hd⟩ hy h0 hr hq)

/-! ## Results on the encoding of a raw value (rules R123, R124) -/

section CodeWord

variable {x : Nat} (hinv : ConfigInv s) (hc : s.cfgok = true)

include hinv hc

theorem valid_encodedValue (hx : x ≤ dMax s) : Valid s (encodedValue s x) :=
  ⟨encodedValue_lt hinv hc hx, (decodedValue_encodedValue hinv hc hx).trans_le hx⟩

theorem encodedValue_mod (hx : x ≤ dMax s) : encodedValue s x % modulus s = encodedValue s x :=
  Nat.mod_eq_of_lt (encodedValue_lt hinv hc hx)

theorem addElement_encodedValue (hx : x ≤ dMax s) (hy : s.opd.toNat ≤ dMax s) (hz : x + s.opd.toNat ≤ dMax s) :
    addElement s (encodedValue s x) = .ok (encodedValue s (x + s.opd.toNat)) := by
  have hdistrib : encodedValue s x + encodedValue s s.opd.toNat = encodedValue s (x + s.opd.toNat) :=
    (Nat.add_mul ..).symm
  rw [addElement_ok (valid_encodedValue hinv hc hx) hy, hdistrib, encodedValue_mod hinv hc hz]

theorem subElement_encodedValue (hx : x ≤ dMax s) (hy : s.opd.toNat ≤ x) :
    subElement s (encodedValue s x) = .ok (encodedValue s (x - s.opd.toNat)) := by
  have hle : encodedValue s s.opd.toNat ≤ encodedValue s x := Nat.mul_le_mul_right _ hy
  have hdistrib : encodedValue s x - encodedValue s s.opd.toNat = encodedValue s (x - s.opd.toNat) :=
    (Nat.sub_mul ..).symm
  rw [subElement_ok (valid_encodedValue hinv hc hx) (hy.trans hx), ← Nat.cast_sub hle, ← Int.natCast_mod,
    Int.toNat_natCast, hdistrib, encodedValue_mod hinv hc ((Nat.sub_le ..).trans hx)]

theorem mulElement_encodedValue (hx : x ≤ dMax s) (hy : s.opd.toNat ≤ dMax s) (hz : x * s.opd.toNat ≤ dMax s) :
    mulElement s (encodedValue s x) = .ok (encodedValue s (x * s.opd.toNat)) := by
  have hscale : encodedValue s x * s.opd.toNat = encodedValue s (x * s.opd.toNat) := Nat.mul_right_comm ..
  rw [mulElement_ok (valid_encodedValue hinv hc hx) hy, hscale, encodedValue_mod hinv hc hz]

theorem divElement_encodedValue (hx : x ≤ dMax s) (hy : s.opd.toNat ≤ dMax s) (h0 : s.opd.toNat ≠ 0)
    (hdvd : s.opd.toNat ∣ x) : divElement s (encodedValue s x) = .ok (encodedValue s (x / s.opd.toNat)) := by
  have hquot : encodedValue s x / s.opd.toNat = encodedValue s (x / s.opd.toNat) := (Nat.div_mul_right_comm hdvd _).symm
  have hvalid := valid_encodedValue hinv hc ((Nat.div_le_self x s.opd.toNat).trans hx)
  have hexact : encodedValue s x % s.opd.toNat = 0 := Nat.mod_eq_zero_of_dvd (hdvd.mul_right _)
  rw [divElement_ok (valid_encodedValue hinv hc hx) hy h0 hexact (hquot ▸ hvalid.2), hquot]

/-- Every word of a legal configuration is carried whole on the 128-bit buses. -/
theorem toNat_ofNat_of_lt_modulus {n : Nat} (hn : n < modulus s) : (BitVec.ofNat 128 n).toNat = n :=
  Nat.mod_eq_of_lt (lt_of_lt_modulus hinv hc hn)

/-- `DEC` of what an element command delivers gives `z`, when that is the encoding of a legal raw value `z`: the code word
fits `dout`, and the command leaves the configuration and the latch alone. -/
theorem answersOk_then_dec (op : ElementOp) (he : s.err = false) {v z : Nat} (hdin : s.din.toNat = v) (hz : z ≤ dMax s)
    (hr : elementResult op s v = .ok (encodedValue s z)) :
    ∃ t d t', AnswersOk op.instr s t d ∧ AnswersOk .dec { t with din := d } t' (BitVec.ofNat 128 z) := by
  subst hdin
  have hraw : (BitVec.ofNat 128 z).toNat = z := toNat_ofNat_of_lt_modulus hinv hc (hz.trans_lt (dMax_lt hinv hc))
  have hword : (BitVec.ofNat 128 (encodedValue s z)).toNat = encodedValue s (BitVec.ofNat 128 z).toNat := by
    rw [hraw, toNat_ofNat_of_lt_modulus hinv hc (encodedValue_lt hinv hc hz)]
  simp only [exists_and_left]
  refine ⟨_, _, ⟨exec_elementOp_ok op hc he hr, rfl⟩, (dec_and_chk_of_codeWord ?_ ?_ ?_ ?_ ?_).1⟩
  exacts [hinv, hc, he, hraw.trans_le hz, hword]

/-- `ENC`, an element command that turns the code word into the encoding of a legal raw value `z`, and `DEC` give `z`:
what `ENC` delivers is the code word on `din`, and `ENC` leaves the configuration, `OPD` and the latch alone. -/
theorem enc_then_op_then_dec (he : s.err = false) (hx : s.din.toNat ≤ dMax s) :
    ∃ t e, AnswersOk .enc s t e ∧ ∀ (op : ElementOp) {z : Nat}, z ≤ dMax s →
      elementResult op s (encodedValue s s.din.toNat) = .ok (encodedValue s z) →
      ∃ t1 d1 t2, AnswersOk op.instr { t with din := e } t1 d1 ∧
        AnswersOk .dec { t1 with din := d1 } t2 (BitVec.ofNat 128 z) := by
  obtain ⟨hlt, henc⟩ := encDeliversTheExactProduct s hinv hc he hx
  have hdin := toNat_ofNat_of_lt_modulus hinv hc hlt
  refine ⟨_, _, ⟨henc, rfl⟩, fun op z hz hr => answersOk_then_dec ?_ ?_ op ?_ hdin hz hr⟩
  exacts [hinv, hc, he]

end CodeWord

/-- Settles O43: each operator turns the code word of `x` into the code word of its result, and `DEC` gives that result
back. -/
theorem arithmeticCommutesWithDecoding : Obligations.ArithmeticCommutesWithDecoding := by
  rintro s x y hinv hc he rfl rfl hx hy
  obtain ⟨t, e, henc, hthen⟩ := enc_then_op_then_dec hinv hc he hx
  refine ⟨t, e, henc, fun hz => ?_, fun hle => ?_, fun hz => ?_, fun hpos hr => ?_⟩
  · exact hthen .add hz (addElement_encodedValue hinv hc hx hy hz)
  · exact hthen .sub ((Nat.sub_le ..).trans hx) (subElement_encodedValue hinv hc hx hle)
  · exact hthen .mul hz (mulElement_encodedValue hinv hc hx hy hz)
  · exact hthen .div ((Nat.div_le_self ..).trans hx)
      (divElement_encodedValue hinv hc hx hy (Nat.one_le_iff_ne_zero.mp hpos) (Nat.dvd_of_mod_eq_zero hr))

end Sys2Proof.Machine
end

section
/-! SUPPORT. The control commands (`43_call_control.md` rules R136 to R141): `NOP`, `START` and `NEXTITER` are their state
updates and the response; `RDREG` reads the words of `10_state.md` rule R21, each here as the number it holds. -/

namespace Sys2Proof.Machine

variable {s : State}

/-! ## `NOP`, `START`, `NEXTITER` -/

/-- Settles O14: `NOP` is the response alone. -/
theorem nopOnlyResponds : Obligations.NopOnlyResponds :=
  ⟨by decide, fun _ => rfl⟩

/-- Settles O15: `START` is the opening of a call and the response, with no test. -/
theorem startOpensACall : Obligations.StartOpensACall :=
  ⟨by decide, fun _ => rfl⟩

/-- Settles O5: what `START` zeroes is zero at reset. -/
theorem startAfterResetChangesNoRegister : Obligations.StartAfterResetChangesNoRegister :=
  ⟨_, startOpensACall.2 State.reset, SameRegisters.refl State.reset⟩

theorem exec_nextiter (he : s.err = false) : exec .nextiter s = .next (s.openIteration.respond .ok 0) := by
  simp [exec, execNextiter, he, complete]

/-- A command of the call is refused while an error is latched (`60_exceptions.md` rule R165). -/
theorem exec_latched {i : Instr} (hi : runsWhileLatched i = false) (he : s.err = true) :
    exec i s = .next (s.respond .aborted 0) := by
  obtain ⟨u, r, hexec, heffect⟩ := exec_effect i s
  cases heffect with
  | refused => exact hexec
  | nextiter h => simp [h] at he
  | element op d h => simp [h] at he
  | raised op c h => simp [h] at he
  | _ => cases hi

/-- `ITER` counts modulo `2^32` (`43_call_control.md` rule R140). -/
theorem iter_add_one (s : State) : s.iter + 1 = BitVec.ofNat 32 ((s.iter.toNat + 1) % 2 ^ 32) :=
  BitVec.eq_of_toNat_eq (by simp [BitVec.toNat_add])

/-- Settles O16: `NEXTITER` reads the latch alone. -/
theorem nextiterOpensTheNextIteration : Obligations.NextiterOpensTheNextIteration := by
  refine ⟨by decide, fun s => ⟨fun he => ?_, exec_latched rfl⟩⟩
  rw [exec_nextiter he, ← iter_add_one]
  rfl

/-! ## The words that `RDREG` reads (`10_state.md` rule R21) -/

/-- The number of a word made of a high and a low field. -/
theorem toNat_append_eq_add {m n : Nat} (hi : BitVec m) (lo : BitVec n) :
    (hi ++ lo).toNat = lo.toNat + 2 ^ n * hi.toNat := by
  rw [BitVec.toNat_append, ← Nat.shiftLeft_add_eq_or_of_lt lo.isLt, Nat.shiftLeft_eq, Nat.mul_comm, Nat.add_comm]

theorem toNat_statusWord (s : State) :
    (statusWord s).toNat = (if s.cfgok then 1 else 0) + 2 * (if s.err then 1 else 0) := by
  rw [statusWord, toNat_append_eq_add, BitVec.toNat_ofBool, BitVec.toNat_ofBool]
  cases s.cfgok <;> cases s.err <;> rfl

theorem toNat_cfgwWord (s : State) : (cfgwWord s).toNat = s.win.toNat + 2 ^ 8 * s.wout.toNat :=
  toNat_append_eq_add s.wout s.win

theorem toNat_errinfoWord (s : State) :
    (errinfoWord s).toNat = s.errKind.code.toNat + 2 ^ 4 * s.errCause.code.toNat + 2 ^ 8 * s.errTag.toNat := by
  rw [errinfoWord, toNat_append_eq_add, toNat_append_eq_add]

/-- `DMAX` fits its 64-bit register (`10_state.md` rule R27). -/
theorem toNat_dMax (h : WidthInv s) : (BitVec.ofNat 64 (dMax s)).toNat = 2 ^ s.win.toNat - 1 := by
  have hfit : 2 ^ s.win.toNat ≤ 2 ^ 64 := Nat.pow_le_pow_right (by omega) (h.1.trans h.2)
  exact Nat.mod_eq_of_lt (by rw [dMax]; omega)

/-- Settles O17, by the index: a register is at most 64 bits wide, so zero-extension keeps its number. -/
theorem rdregReturnsTheRegister : Obligations.RdregReturnsTheRegister := by
  refine ⟨fun r hr => Laws.RoundTrip.rdreg r (decide_eq_true hr), fun s r hw => ⟨readRegister s r, rfl, ?_⟩⟩
  have hextend {n : Nat} (hn : n ≤ 128) (x : BitVec n) : (x.setWidth 128).toNat = x.toNat :=
    BitVec.toNat_setWidth_of_le hn
  match r with
  | 0 => exact (hextend (by decide) _).trans (toNat_statusWord s)
  | 1 => exact (hextend (by decide) _).trans (toNat_cfgwWord s)
  | 4 => exact (hextend (by decide) _).trans (toNat_dMax hw)
  | 8 => exact (hextend (by decide) _).trans (toNat_errinfoWord s)
  | 2 | 3 | 5 | 6 | 7 | 9 | 10 => exact hextend (by decide) _
  | _ + 11 => rfl

end Sys2Proof.Machine
end

section
/-! SUPPORT. `BULK` and `REPEAT` (`43_call_control.md` rules R144, R147). `Takes l s t` says what a list of inputs does,
whatever follows it; it composes along `++`, so each list is settled from the stretches it is made of: `START` or
`NEXTITER`, passing elements, the failing element, and the refused commands after it. -/

namespace Sys2Proof.Machine

variable {s t u : State} {op : ElementOp} {vs pre post : List Data} {v : Data} {rs : List Nat} {cause : Cause}

/-! ## What a list of inputs does -/

/-- Taking the inputs `l` one by one turns the registers and responses of `s` into those of `t`, whatever is on `din`
before and whatever the host issues after them. -/
def Takes (l : List HostInput) (s t : State) : Prop :=
  ∀ d rest, ∃ d', core.run l.length (s.accept d (l ++ rest)) = .next (t.accept d' rest)

theorem takes_nil (s : State) : Takes [] s s := fun d _ => ⟨d, rfl⟩

theorem Takes.append {l l' : List HostInput} (h : Takes l s t) (h' : Takes l' t u) : Takes (l ++ l') s u := by
  intro d rest
  obtain ⟨d₁, hl⟩ := h d (l' ++ rest)
  obtain ⟨d₂, hl'⟩ := h' d₁ rest
  rw [List.append_assoc, List.length_append]
  exact ⟨d₂, (core_run_add core _ hl).trans hl'⟩

theorem Takes.cons {x : HostInput} {l : List HostInput} (h : Takes [x] s t) (h' : Takes l t u) : Takes (x :: l) s u :=
  h.append h'

/-- The input of a command does what the command does. -/
theorem takes_issue {i : Instr} (hi : WellFormed i)
    (h : ∀ rest, exec i (s.accept v rest) = .next (t.accept v rest)) : Takes [issue i v] s t :=
  fun _ rest => ⟨v, run_succ 0 ((step_command rfl (decodeOfEncodeIsTheCommand i hi)).trans (h rest))⟩

/-- A run of just the host's list. -/
theorem Takes.run {l : List HostInput} (h : Takes l s t) (hp : s.pending = l) :
    ∃ d, core.run l.length s = .next (t.accept d []) := by
  subst hp
  obtain ⟨d, hrun⟩ := h s.din []
  rw [List.append_nil] at hrun
  exact ⟨d, hrun⟩

/-! ## `START` and `NEXTITER` -/

theorem takes_start (s : State) : Takes [issue .start] s (s.openCall.respond .ok 0) :=
  takes_issue rfl fun _ => rfl

theorem takes_nextiter (he : s.err = false) : Takes [issue .nextiter] s (s.openIteration.respond .ok 0) :=
  takes_issue rfl fun _ => exec_nextiter he

/-! ## Elements that pass and the one that fails -/

/-- No error is latched in `t`, and its element functions are those of `s`. -/
abbrev Continues (t s : State) : Prop := t.err = false ∧ SameConfig t s ∧ t.opd = s.opd

theorem continues_openCall (s : State) : Continues (s.openCall.respond .ok 0) s :=
  ⟨rfl, ⟨rfl, rfl, rfl, rfl, rfl⟩, rfl⟩

theorem Continues.configured (ht : Continues t s) (hc : s.cfgok = true) : t.cfgok = true := by
  obtain ⟨-, ⟨hcfgok, -⟩, -⟩ := ht
  exact hcfgok.trans hc

theorem wellFormed_instr (op : ElementOp) : WellFormed op.instr := by cases op <;> rfl

/-- An element command is decided by the element function of the state in which the call began (rule R107). -/
theorem exec_elementOp_accept (ht : Continues t s) (op : ElementOp) (v : Data) (rest : List HostInput) :
    exec op.instr (t.accept v rest) =
      elementCommand (opcode op.instr) (elementResult op s v.toNat) (t.accept v rest) := by
  obtain ⟨-, hcfg, hopd⟩ := ht
  have hresult : elementResult op (t.accept v rest) v.toNat = elementResult op s v.toNat :=
    elementResult_congr hcfg hopd op v.toNat
  rw [exec_elementOp, dataOperand, State.accept_din, hresult]

theorem takes_passing_element {r : Nat} (hc : s.cfgok = true) (ht : Continues t s)
    (hv : elementResult op s v.toNat = .ok r) :
    Takes [issue op.instr v] t (t.advance.respond .ok (BitVec.ofNat 128 r)) := by
  refine takes_issue (wellFormed_instr op) fun rest => ?_
  rw [exec_elementOp_accept ht, hv]
  exact elementCommand_ok ht.1 (ht.configured hc)

/-- The responses of passing elements (rule R144). -/
abbrev delivered (rs : List Nat) : List Response := rs.map fun r => ⟨.ok, BitVec.ofNat 128 r⟩

/-- Elements with the results `rs` have passed: `IDX` has counted them and the results are delivered. -/
def State.afterElements (s : State) (rs : List Nat) : State :=
  { s with idx := s.idx + BitVec.ofNat 64 rs.length, responses := s.responses ++ delivered rs }

/-- A counter that counts one and then `n` counts `n + 1`, wraps included. -/
theorem add_one_add_ofNat {w : Nat} (x : BitVec w) (n : Nat) :
    x + 1#w + BitVec.ofNat w n = x + BitVec.ofNat w (n + 1) := by
  rw [Nat.add_comm n, BitVec.ofNat_add, BitVec.add_assoc]

theorem afterElements_nil (s : State) : s.afterElements [] = s := by simp [State.afterElements]

theorem afterElements_cons (s : State) (r : Nat) (rs : List Nat) :
    (s.advance.respond .ok (BitVec.ofNat 128 r)).afterElements rs = s.afterElements (r :: rs) := by
  simp [State.afterElements, State.advance, State.respond, add_one_add_ofNat]

/-- The elements `vs` pass in the state `s`, with the results `rs` (rule R144). -/
abbrev Passes (op : ElementOp) (s : State) (vs : List Data) (rs : List Nat) : Prop :=
  List.Forall₂ (fun v r => elementResult op s v.toNat = .ok r) vs rs

theorem takes_passing (hc : s.cfgok = true) (ht : Continues t s) (hpass : Passes op s vs rs) :
    Takes (passOf op vs) t (t.afterElements rs) := by
  induction hpass generalizing t with
  | nil => exact (afterElements_nil t).symm ▸ takes_nil t
  | cons hv _ ih =>
    rw [← afterElements_cons]
    refine (takes_passing_element hc ht hv).cons ?_
    exact ih ht

/-- The error entry of the failing element (`60_exceptions.md` rule R163). -/
def State.afterFailure (s : State) (op : ElementOp) (cause : Cause) : State :=
  (s.latch (opcode op.instr) cause.kind cause).respond cause.kind.resp (cause.code.setWidth 128)

theorem takes_failing_element (hc : s.cfgok = true) (ht : Continues t s)
    (hv : elementResult op s v.toNat = .error cause) : Takes [issue op.instr v] t (t.afterFailure op cause) := by
  refine takes_issue (wellFormed_instr op) fun rest => ?_
  rw [exec_elementOp_accept ht, hv]
  exact elementCommand_error ht.1 (ht.configured hc)

/-! ## Refused commands (`60_exceptions.md` rule R165) -/

/-- The input is a command that is refused while an error is latched. -/
def RefusedInput (x : HostInput) : Prop :=
  ∃ i d, x = issue i d ∧ WellFormed i ∧ runsWhileLatched i = false

theorem refusedInput_passOf (op : ElementOp) (vs : List Data) : ∀ x ∈ passOf op vs, RefusedInput x := by
  rw [passOf, List.forall_mem_map]
  exact fun v _ => ⟨op.instr, v, rfl, wellFormed_instr op, by cases op <;> rfl⟩

theorem refusedInput_laterPasses (op : ElementOp) (vs : List Data) (k : Nat) :
    ∀ x ∈ laterPasses op vs k, RefusedInput x := by
  induction k with
  | zero => exact nofun
  | succ k ih =>
    exact List.forall_mem_cons.mpr
      ⟨⟨.nextiter, 0, rfl, rfl, rfl⟩, List.forall_mem_append.mpr ⟨refusedInput_passOf op vs, ih⟩⟩

/-- `n` commands have been refused. -/
def State.afterRefusals (s : State) (n : Nat) : State :=
  { s with responses := s.responses ++ List.replicate n ⟨.aborted, 0⟩ }

theorem afterRefusals_zero (s : State) : s.afterRefusals 0 = s := by simp [State.afterRefusals]

theorem afterRefusals_succ (s : State) (n : Nat) :
    (s.respond .aborted 0).afterRefusals n = s.afterRefusals (n + 1) := by
  simp [State.afterRefusals, State.respond, List.replicate_succ]

theorem takes_refused {l : List HostInput} (hl : ∀ x ∈ l, RefusedInput x) (he : s.err = true) :
    Takes l s (s.afterRefusals l.length) := by
  induction l generalizing s with
  | nil => exact (afterRefusals_zero s).symm ▸ takes_nil s
  | cons x l ih =>
    obtain ⟨⟨i, v, rfl, hwf, hi⟩, htail⟩ := List.forall_mem_cons.mp hl
    have hhead : Takes [issue i v] s (s.respond .aborted 0) := takes_issue hwf fun _ => exec_latched hi he
    rw [List.length_cons, ← afterRefusals_succ]
    exact hhead.cons (ih htail he)

/-! ## `BULK` -/

theorem length_passOf (op : ElementOp) (vs : List Data) : (passOf op vs).length = vs.length := List.length_map _

theorem length_bulk (op : ElementOp) (vs : List Data) : (bulk op vs).length = vs.length + 1 := by
  rw [bulk, List.length_cons, length_passOf]

/-- A call whose elements have passed with the results `rs`. -/
def State.afterBulk (s : State) (rs : List Nat) : State := (s.openCall.respond .ok 0).afterElements rs

theorem takes_bulk (hc : s.cfgok = true) (hpass : Passes op s vs rs) : Takes (bulk op vs) s (s.afterBulk rs) :=
  (takes_start s).cons (takes_passing hc (continues_openCall s) hpass)

theorem continues_afterBulk (s : State) (rs : List Nat) : Continues (s.afterBulk rs) s := continues_openCall s

/-- A call whose first failing element is `v`, and any refused commands after its list. -/
theorem takes_bulk_failing {rest : List HostInput} (hc : s.cfgok = true) (hpass : Passes op s pre rs)
    (hv : elementResult op s v.toNat = .error cause) (hrest : ∀ x ∈ rest, RefusedInput x) :
    Takes (bulk op (pre ++ v :: post) ++ rest) s
      (((s.afterBulk rs).afterFailure op cause).afterRefusals (post.length + rest.length)) := by
  have hsplit : bulk op (pre ++ v :: post) ++ rest = bulk op pre ++ issue op.instr v :: (passOf op post ++ rest) := by
    simp [bulk, passOf]
  have hrefused : ∀ x ∈ passOf op post ++ rest, RefusedInput x :=
    List.forall_mem_append.mpr ⟨refusedInput_passOf op post, hrest⟩
  rw [hsplit, ← length_passOf op post, ← List.length_append]
  refine (takes_bulk hc hpass).append ((takes_failing_element hc (continues_afterBulk s rs) hv).cons ?_)
  exact takes_refused hrefused rfl

theorem afterBulk_idx (s : State) (rs : List Nat) : (s.afterBulk rs).idx = BitVec.ofNat 64 rs.length :=
  BitVec.zero_add _

theorem afterBulk_responses (s : State) (rs : List Nat) :
    (s.afterBulk rs).responses = s.responses ++ ⟨.ok, 0⟩ :: delivered rs :=
  List.append_assoc ..

theorem failing_bulk_responses (s : State) (rs : List Nat) (op : ElementOp) (cause : Cause) (n : Nat) :
    (((s.afterBulk rs).afterFailure op cause).afterRefusals n).responses =
      s.responses ++ ⟨.ok, 0⟩ :: (delivered rs ++
        ⟨cause.kind.resp, cause.code.setWidth 128⟩ :: List.replicate n ⟨.aborted, 0⟩) := by
  simp [State.afterRefusals, State.afterFailure, afterBulk_responses]

/-- Settles O45: after the list of the call nothing is left to refuse. -/
theorem bulkOperationStopsAtTheFirstFailure : Obligations.BulkOperationStopsAtTheFirstFailure := by
  intro s op vs _ hc hp
  rw [← length_bulk op vs]
  constructor
  · intro rs hpass
    obtain ⟨d, hrun⟩ := (takes_bulk hc hpass).run hp
    rw [hpass.length_eq]
    exact ⟨_, hrun, rfl, afterBulk_responses s rs, afterBulk_idx s rs, rfl, rfl⟩
  · rintro pre post v rs cause rfl hpass hv
    have htakes := takes_bulk_failing (post := post) (rest := []) hc hpass hv nofun
    rw [List.append_nil] at htakes
    obtain ⟨d, hrun⟩ := htakes.run hp
    rw [hpass.length_eq]
    exact ⟨_, hrun, rfl, failing_bulk_responses s rs op cause post.length, afterBulk_idx s rs, rfl, rfl, rfl,
      (setWidth_encode_instr op).symm, afterBulk_idx s rs, rfl⟩

/-! ## `REPEAT` -/

theorem length_laterPasses (op : ElementOp) (vs : List Data) (k : Nat) :
    (laterPasses op vs k).length = k * (vs.length + 1) := by
  induction k with
  | zero => rw [laterPasses, List.length_nil, Nat.zero_mul]
  | succ k ih =>
    rw [laterPasses, List.length_cons, List.length_append, ih, length_passOf]
    ring

/-- `k` later passes have been made, each with the results `rs`. -/
def State.afterPasses (s : State) (rs : List Nat) (k : Nat) : State :=
  { s with
    iter := s.iter + BitVec.ofNat 32 k
    responses := s.responses ++ (List.replicate k (⟨.ok, 0⟩ :: delivered rs)).flatten }

theorem afterPasses_zero (s : State) (rs : List Nat) : s.afterPasses rs 0 = s := by simp [State.afterPasses]

/-- A later pass leaves `IDX` where the pass before it left it: at the length of the list. -/
theorem afterPasses_succ (hidx : s.idx = BitVec.ofNat 64 rs.length) (k : Nat) :
    ((s.openIteration.respond .ok 0).afterElements rs).afterPasses rs k = s.afterPasses rs (k + 1) := by
  simp [State.afterPasses, State.afterElements, State.openIteration, State.respond, add_one_add_ofNat, hidx,
    List.replicate_succ]

theorem takes_laterPasses (hc : s.cfgok = true) (ht : Continues t s) (hidx : t.idx = BitVec.ofNat 64 rs.length)
    (hpass : Passes op s vs rs) (k : Nat) : Takes (laterPasses op vs k) t (t.afterPasses rs k) := by
  induction k generalizing t with
  | zero => exact (afterPasses_zero t rs).symm ▸ takes_nil t
  | succ k ih =>
    have ht' : Continues (t.openIteration.respond .ok 0) s := ht
    rw [← afterPasses_succ hidx]
    refine (takes_nextiter ht.1).cons ((takes_passing hc ht' hpass).append ?_)
    exact ih ht (BitVec.zero_add _)

theorem takes_repeatPasses (hc : s.cfgok = true) (hpass : Passes op s vs rs) (k : Nat) :
    Takes (repeatPasses op (k + 1) vs) s ((s.afterBulk rs).afterPasses rs k) :=
  (takes_bulk hc hpass).append (takes_laterPasses hc (continues_afterBulk s rs) (BitVec.zero_add _) hpass k)

theorem repeatPasses_responses (s : State) (rs : List Nat) (k : Nat) :
    ((s.afterBulk rs).afterPasses rs k).responses =
      s.responses ++ (List.replicate (k + 1) (⟨.ok, 0⟩ :: delivered rs)).flatten := by
  simp [State.afterPasses, afterBulk_responses, List.replicate_succ]

/-- Settles O46: the later passes make the first one again, or are what is refused after it. -/
theorem repeatedPassesFailFastForTheWholeCall : Obligations.RepeatedPassesFailFastForTheWholeCall := by
  intro s op vs k hk _ hc hp
  obtain ⟨k, rfl⟩ := Nat.exists_eq_add_of_le' hk
  constructor
  · intro rs hpass
    obtain ⟨d, hrun⟩ := (takes_repeatPasses hc hpass k).run hp
    rw [hpass.length_eq]
    exact ⟨_, hrun, rfl, repeatPasses_responses s rs k, BitVec.zero_add _, afterBulk_idx s rs, rfl⟩
  · rintro pre post v rs cause rfl hpass hv
    obtain ⟨d, hrun⟩ := (takes_bulk_failing hc hpass hv (refusedInput_laterPasses op _ k)).run hp
    have hresponses := failing_bulk_responses s rs op cause (post.length + k * ((pre ++ v :: post).length + 1))
    rw [length_laterPasses] at hrun
    rw [hpass.length_eq]
    exact ⟨_, hrun, rfl, hresponses, afterBulk_idx s rs, rfl, rfl, afterBulk_idx s rs, rfl⟩

end Sys2Proof.Machine
end

section
/-! SUPPORT. The events of `60_exceptions.md` that latch nothing: idling (rule R171), an illegal word (rule R166), and an
error of `INV` or `CFG` (rule R164). -/

namespace Sys2Proof.Machine

variable {s u : State} {i : Instr} {r : Response}

/-- Settles O4: the idle case of a step. -/
theorem idleStepHoldsTheState : Obligations.IdleStepHoldsTheState :=
  fun _ => step_idle

/-- Settles O11: a word that decodes selects the row of its command, so a word that selects none does not decode. -/
theorem illegalWordChangesNoState : Obligations.IllegalWordChangesNoState := by
  intro s c d rest hp hrows
  cases hd : decode c with
  | error reason => exact step_illegal hp hd
  | ok i => exact absurd (selects_of_decode hd) (hrows _ (opcodeRow_mem_opcodeTable i))

@[simp] theorem runsWhileLatched_instr (op : ElementOp) : runsWhileLatched op.instr = false := by cases op <;> rfl

/-- Of the six commands that are never refused, only `INV` and `CFG` answer with an error; it is `CONFIG`, `INV` writes
nothing and `CFG` clears `CFGOK`. -/
theorem Effect.rejected (he : Effect s i u r) (hi : runsWhileLatched i = true) (hr : r.resp ≠ .ok) :
    r.resp = .config ∧
      ((∃ w, i = .inv w) ∧ u = s ∨ (∃ win wout, i = .cfg win wout) ∧ u = s.unconfigure) := by
  cases he with
  | invRejected w => exact ⟨rfl, .inl ⟨⟨w, rfl⟩, rfl⟩⟩
  | cfgRejected win wout => exact ⟨rfl, .inr ⟨⟨win, wout, rfl⟩, rfl⟩⟩
  | refused _ _ hl => simp [hl] at hi
  | element op => simp at hi
  | raised op => simp at hi
  | _ => exact absurd rfl hr

/-- Settles O34: an answer other than `OK` is a rejection, and a rejection writes at most `CFGOK`. -/
theorem errorsOfInvAndCfgAreNotLatched : Obligations.ErrorsOfInvAndCfgAreNotLatched := by
  intro s t r hresp hr
  constructor
  · intro w hexec
    obtain ⟨u, rfl, he⟩ := exec_response hexec hresp
    obtain ⟨hconfig, ⟨-, rfl⟩ | ⟨⟨_, _, hi⟩, -⟩⟩ := he.rejected rfl hr
    · exact ⟨hconfig, rfl⟩
    · cases hi
  · intro win wout hexec
    obtain ⟨u, rfl, he⟩ := exec_response hexec hresp
    obtain ⟨hconfig, ⟨⟨_, hi⟩, -⟩ | ⟨-, rfl⟩⟩ := he.rejected rfl hr
    · cases hi
    · exact ⟨hconfig, rfl⟩

end Sys2Proof.Machine
end

section
/-! SUPPORT. A latched error (`60_exceptions.md` rules R163, R165): the record agrees with the counters because a command
that moves a counter runs only with no error latched, and the six commands that still run do not read the latch. -/

namespace Sys2Proof.Machine

variable {s u : State} {i : Instr} {r : Response}

/-- The error entry makes the record agree, a counter moves only while nothing is latched, and `START` clears the latch. -/
theorem Effect.recordAgrees (he : Effect s i u r) (h : RecordAgrees s) : RecordAgrees u := by
  cases he with
  | start => exact fun hu => absurd hu Bool.false_ne_true
  | raised op c => exact fun _ => ⟨rfl, rfl, rfl⟩
  | nextiter hs => exact fun hu => absurd (hs.symm.trans hu) Bool.false_ne_true
  | element op d hs => exact fun hu => absurd (hs.symm.trans hu) Bool.false_ne_true
  | _ => exact h

/-- Settles O38: agreement holds at reset, and each effect of a command keeps it. -/
theorem stepsKeepTheRecordInAgreement : Obligations.StepsKeepTheRecordInAgreement :=
  fun _ _ => step_keeps (fun _ _ _ _ => id) recordAgrees_reset Effect.recordAgrees

/-- A command that is never refused does not answer `ABORTED`. -/
theorem Effect.resp_ne_aborted (he : Effect s i u r) (hi : runsWhileLatched i = true) : r.resp ≠ .aborted := by
  intro hr
  obtain ⟨hconfig, -⟩ := he.rejected hi (by simp [hr])
  simp [hr] at hconfig

/-- The commands that are never refused, all but `RDREG`, answer and write alike with and without a latched error. -/
theorem exec_ignores_latch (s : State) (hi : runsWhileLatched i = true) :
    ∃ t r, exec i s = .next t ∧ t.responses = s.responses ++ [r] ∧
      ((∀ n, i ≠ .rdreg n) → ∃ u, exec i { s with err := false } = .next u ∧
        u.responses = s.responses ++ [r] ∧ SameRegisters { t with err := false } { u with err := false }) := by
  cases i with
  | nop | setop | start => exact ⟨_, ⟨.ok, 0⟩, rfl, rfl, fun _ => ⟨_, rfl, rfl, SameRegisters.refl _⟩⟩
  | rdreg n => exact ⟨_, ⟨.ok, _⟩, rfl, rfl, fun h => absurd rfl (h n)⟩
  | inv w =>
    obtain ⟨r, hexec, hclear⟩ := invIsAFunctionOfItsOperands s { s with err := false } w rfl
    exact ⟨_, r, hexec, rfl, fun _ => ⟨_, hclear, rfl, SameRegisters.refl _⟩⟩
  | cfg win wout =>
    cases hf : configFault win wout s.din.toNat with
    | none =>
      exact ⟨_, ⟨.ok, _⟩, exec_cfg_of_pass hf, rfl, fun _ =>
        ⟨_, exec_cfg_of_pass (s := { s with err := false }) hf, rfl, SameRegisters.refl _⟩⟩
    | some c =>
      exact ⟨_, ⟨.config, _⟩, exec_cfg_of_fault hf, rfl, fun _ =>
        ⟨_, exec_cfg_of_fault (s := { s with err := false }) hf, rfl, SameRegisters.refl _⟩⟩
  | _ => cases hi

/-- Settles O30: the refused commands by their common test, the others because they do not read the latch. -/
theorem latchedErrorRefusesTheRestOfTheCall : Obligations.LatchedErrorRefusesTheRestOfTheCall := by
  refine fun s hs i => ⟨fun hi => exec_latched hi hs, fun hi => ?_⟩
  obtain ⟨t, r, hexec, hresp, hclear⟩ := exec_ignores_latch s hi
  obtain ⟨u, -, he⟩ := exec_response hexec hresp
  exact ⟨t, r, hexec, hresp, he.resp_ne_aborted hi, hclear⟩

end Sys2Proof.Machine
end

section
/-! SUPPORT. The tests of an element command as one list (`60_exceptions.md` rule R159): each element function makes its own
tests in that order (`exists_elementResult_eq_runTests`), after the configuration test that all share
(`elementTests_eq_cons`); a list of tests ends at the first that hits (`runTests_eq`). -/

namespace Sys2Proof.Machine

variable {s : State} {tests : List (Bool × Cause)} {c : Cause} {d v : Nat}

/-! ## A list of tests -/

/-- The tests made in order: the first that hits decides the cause; when none does, the result is `d`. -/
def runTests (tests : List (Bool × Cause)) (d : Nat) : Except Cause Nat :=
  tests.foldr (fun test rest => if test.1 then .error test.2 else rest) (.ok d)

theorem runTests_nil : runTests [] d = .ok d := rfl

theorem runTests_cons {P : Prop} [Decidable P] :
    runTests ((decide P, c) :: tests) d = if P then .error c else runTests tests d := by
  simp [runTests]

theorem runTests_eq (tests : List (Bool × Cause)) (d : Nat) :
    runTests tests d = (tests.find? (fun p => p.1)).elim (.ok d) (fun p => .error p.2) := by
  induction tests with
  | nil => rfl
  | cons test tests ih =>
    obtain ⟨hit, c⟩ := test
    cases hit with
    | true => rfl
    | false => exact ih

/-! ## The tests of the element commands -/

/-- The tests an element command makes once it is found to be configured. -/
def ownTests (op : ElementOp) (s : State) : List (Bool × Cause) := (elementTests op s).tail

theorem elementTests_eq_cons (op : ElementOp) (s : State) :
    elementTests op s = (!s.cfgok, .notConfigured) :: ownTests op s := by
  cases op <;> rfl

theorem encElement_eq_runTests :
    encElement s v = runTests [(decide (dMax s < v), .inputWidth)] (encodedValue s v) := by
  simp only [encElement, rawWidthFault, runTests_cons, runTests_nil]
  split_ifs <;> rfl

theorem chkElement_eq_runTests :
    chkElement s v =
      runTests [(decide (modulus s ≤ v), .inputWidth), (decide (dMax s < decodedValue s v), .range)] 0 := by
  simp only [chkElement, encodedWidthFault, rangeFault, runTests_cons, runTests_nil]
  split_ifs <;> rfl

theorem decElement_eq_runTests :
    decElement s v =
      runTests [(decide (modulus s ≤ v), .inputWidth), (decide (dMax s < decodedValue s v), .range)]
        (decodedValue s v) := by
  simp only [decElement, encodedWidthFault, rangeFault, runTests_cons, runTests_nil]
  split_ifs <;> rfl

/-- `ADD`, `SUB` and `MUL` make tests P3, P4 and P5 (`42_arithmetic.md` rule R118). -/
theorem arithElement_eq_runTests :
    arithElement false s v (.ok d) =
      runTests [(decide (modulus s ≤ v), .inputWidth), (decide (dMax s < s.opd.toNat), .operandRange),
        (decide (dMax s < decodedValue s v), .range)] d := by
  simp only [arithElement, encodedWidthFault, operandFault, rangeFault, runTests_cons, runTests_nil, Bool.false_and,
    Bool.false_eq_true, if_false]
  split_ifs <;> rfl

/-- `DIV` tests the operand for zero after its range, and makes the tests of P6 last (`42_arithmetic.md` rule R122). -/
theorem divElement_eq_runTests :
    divElement s v =
      runTests [(decide (modulus s ≤ v), .inputWidth), (decide (dMax s < s.opd.toNat), .operandRange),
        (decide (s.opd.toNat = 0), .divZero), (decide (dMax s < decodedValue s v), .range),
        (decide (v % s.opd.toNat ≠ 0), .divisibility),
        (decide (dMax s < decodedValue s (v / s.opd.toNat)), .resultRange)] (v / s.opd.toNat) := by
  simp only [divElement, arithElement, encodedWidthFault, operandFault, rangeFault, quotient, runTests_cons,
    runTests_nil, Bool.true_and, beq_iff_eq]
  split_ifs <;> rfl

/-- Every element function is its own tests in the order of rule R159, and then its result. -/
theorem exists_elementResult_eq_runTests (op : ElementOp) (s : State) :
    ∃ d, elementResult op s s.din.toNat = runTests (ownTests op s) d := by
  cases op with
  | enc => exact ⟨_, encElement_eq_runTests⟩
  | chk => exact ⟨_, chkElement_eq_runTests⟩
  | dec => exact ⟨_, decElement_eq_runTests⟩
  | add | sub | mul => exact ⟨_, arithElement_eq_runTests⟩
  | div => exact ⟨_, divElement_eq_runTests⟩

/-! ## The first test that hits -/

theorem find?_elementTests_of_unconfigured (op : ElementOp) (hc : s.cfgok = false) :
    (elementTests op s).find? (fun p => p.1) = some (true, .notConfigured) := by
  simp [elementTests_eq_cons, hc]

/-- In a configured state the first test that hits gives the error, and if none hits there is a result. -/
theorem exists_elementResult_eq_find? (op : ElementOp) (hc : s.cfgok = true) :
    ∃ d, elementResult op s s.din.toNat =
      ((elementTests op s).find? (fun p => p.1)).elim (.ok d) (fun p => .error p.2) := by
  obtain ⟨d, hd⟩ := exists_elementResult_eq_runTests op s
  exact ⟨d, by simp [hd, runTests_eq, elementTests_eq_cons, hc]⟩

/-- Settles O29: the error entry takes the cause of the first test that hits, and with none the command completes. -/
theorem firstFailingTestIsRecorded : Obligations.FirstFailingTestIsRecorded := by
  intro s op he
  obtain hc | hc := Bool.eq_false_or_eq_true s.cfgok
  · obtain ⟨d, hd⟩ := exists_elementResult_eq_find? op hc
    constructor
    · intro cause h
      rw [h, Option.elim_some] at hd
      exact exec_elementOp_error op hc he hd
    · intro h
      rw [h, Option.elim_none] at hd
      exact ⟨_, exec_elementOp_ok op hc he hd⟩
  · rw [find?_elementTests_of_unconfigured op hc]
    constructor
    · rintro _ ⟨⟩
      rw [exec_elementOp, elementCommand_unconfigured he hc, setWidth_encode_instr]
      rfl
    · exact fun h => nomatch h

end Sys2Proof.Machine
end

section
/-! SUPPORT. Reset between two commands (`70_reset_and_hazards.md` rule R180), and what the code does not catch at once: the
corruptions that are code words (rule R188) and the unchecked results of `ADD`, `SUB` and `MUL` (rule R189). -/

namespace Sys2Proof.Machine

variable {s : State}

/-- Settles O3: the reset case of a step. -/
theorem resetInputGivesTheZeroState : Obligations.ResetInputGivesTheZeroState :=
  fun _ _ hp => ⟨_, step_rst hp, SameRegisters.refl State.reset, rfl, rfl⟩

/-! ## The accepted words (rule R188) -/

/-- The code words `0, A, ..., DMAX × A` (`41_codec.md` rule R95). -/
def codeWords (s : State) : Finset Nat := (Finset.range (2 ^ s.win.toNat)).image (encodedValue s)

theorem mem_codeWords {v : Nat} : v ∈ codeWords s ↔ ∃ x ≤ dMax s, v = encodedValue s x := by
  simp [codeWords, dMax, Nat.lt_iff_le_pred, eq_comm]

/-- Distinct raw values have distinct code words, because `A` is not 0. -/
theorem card_codeWords (hinv : ConfigInv s) (hc : s.cfgok = true) : (codeWords s).card = 2 ^ s.win.toNat := by
  obtain ⟨-, ⟨-, ha⟩, -⟩ := hinv hc
  have hinj : Function.Injective (encodedValue s) := fun _ _ => Nat.eq_of_mul_eq_mul_right (by omega)
  rw [codeWords, Finset.card_image_of_injective _ hinj, Finset.card_range]

/-- `CHK` of a value that fits the data bus answers `OK` exactly when the value is valid. -/
theorem chk_ofNat_answersOk_iff (hinv : ConfigInv s) (hc : s.cfgok = true) (he : s.err = false) {v : Nat}
    (hv : v < modulus s) :
    (∃ t d, AnswersOk .chk { s with din := BitVec.ofNat 128 v } t d) ↔ decodedValue s v ≤ dMax s := by
  have hdin := toNat_ofNat_of_lt_modulus hinv hc hv
  have h := chk_answersOk_iff (s := { s with din := BitVec.ofNat 128 v }) hc he (hdin.trans_lt hv)
  rwa [hdin] at h

/-- Settles O41: the words that `CHK` accepts are the code words, one for each raw value. -/
theorem acceptedWordsAreCounted : Obligations.AcceptedWordsAreCounted := by
  refine fun s hinv hc he => ⟨codeWords s, card_codeWords hinv hc, fun v => ?_⟩
  rw [mem_codeWords]
  constructor
  · rintro ⟨x, hx, rfl⟩
    obtain ⟨hlt, hvalid⟩ := valid_encodedValue hinv hc hx
    exact ⟨hlt, (chk_ofNat_answersOk_iff hinv hc he hlt).mpr hvalid⟩
  · rintro ⟨hlt, hok⟩
    exact (decodedValue_le_dMax_iff hinv hc hlt).mp ((chk_ofNat_answersOk_iff hinv hc he hlt).mp hok)

/-! ## The unchecked results (rule R189)

On the code word of `x` each of the three commands delivers `encodedValue s k % modulus s`, where `k` is the true result
modulo `M`: `x + y`, `x × y`, and `x + (M - y)` for the difference. -/

section CodeWord

variable {x : Nat} (hinv : ConfigInv s) (hc : s.cfgok = true)

include hinv hc

theorem addElement_codeWord (hx : x ≤ dMax s) (hy : s.opd.toNat ≤ dMax s) :
    addElement s (encodedValue s x) = .ok (encodedValue s (x + s.opd.toNat) % modulus s) := by
  have hdistrib : encodedValue s x + encodedValue s s.opd.toNat = encodedValue s (x + s.opd.toNat) :=
    (Nat.add_mul ..).symm
  rw [addElement_ok (valid_encodedValue hinv hc hx) hy, hdistrib]

theorem subElement_codeWord (hx : x ≤ dMax s) (hy : s.opd.toNat ≤ dMax s) :
    subElement s (encodedValue s x) = .ok (encodedValue s (x + (modulus s - s.opd.toNat)) % modulus s) := by
  have hyM : s.opd.toNat ≤ modulus s := hy.trans (dMax_lt hinv hc).le
  have hdiff : (encodedValue s x : Int) - encodedValue s s.opd.toNat =
      encodedValue s (x + (modulus s - s.opd.toNat)) - modulus s * s.a.toNat := by
    unfold encodedValue
    push_cast [hyM]
    ring
  rw [subElement_ok (valid_encodedValue hinv hc hx) hy, hdiff, Int.sub_mul_emod_self_left, ← Int.natCast_mod,
    Int.toNat_natCast]

theorem mulElement_codeWord (hx : x ≤ dMax s) (hy : s.opd.toNat ≤ dMax s) :
    mulElement s (encodedValue s x) = .ok (encodedValue s (x * s.opd.toNat) % modulus s) := by
  have hscale : encodedValue s x * s.opd.toNat = encodedValue s (x * s.opd.toNat) := Nat.mul_right_comm ..
  rw [mulElement_ok (valid_encodedValue hinv hc hx) hy, hscale]

variable (op : ElementOp) (he : s.err = false) {k : Nat}
  (hr : elementResult op s s.din.toNat = .ok (encodedValue s k % modulus s))

include he hr

/-- The reduced result is carried whole on `dout` and decodes to `k` modulo `M`. -/
theorem answersOk_and_decodes :
    ∃ t d, AnswersOk op.instr s t d ∧ d.toNat * s.ainv.toNat % 2 ^ s.wout.toNat = k % 2 ^ s.wout.toNat := by
  have hword := toNat_ofNat_of_lt_modulus hinv hc (Nat.mod_lt (encodedValue s k) (modulus_pos s))
  refine ⟨_, _, ⟨exec_elementOp_ok op hc he hr, rfl⟩, ?_⟩
  rw [hword]
  exact decodedValue_mul_mod hinv hc k

/-- A result out of range is answered `OK`, and the next `CHK` raises the corruption. -/
theorem answersOk_then_chk_corruption (hk : dMax s < k % modulus s) :
    ∃ t d t', AnswersOk op.instr s t d ∧ exec .chk { t with din := d } = .next t' ∧
      t'.responses = t.responses ++ [⟨.corruption, 1⟩] := by
  have hlt := Nat.mod_lt (encodedValue s k) (modulus_pos s)
  have hword := toNat_ofNat_of_lt_modulus hinv hc hlt
  have hdecode : dMax s < decodedValue s (encodedValue s k % modulus s) :=
    hk.trans_eq (decodedValue_mul_mod hinv hc k).symm
  refine ⟨_, _, _, ⟨exec_elementOp_ok op hc he hr, rfl⟩,
    corruptionIsRecordedAtItsOffset _ .chk (.inl rfl) hc he ?_ ?_, rfl⟩
  · exact hword.trans_lt hlt
  · rwa [← hword] at hdecode

end CodeWord

/-- The wrapped difference is the remainder of the true one. -/
theorem natCast_add_sub_mod {m y : Nat} (x : Nat) (hy : y ≤ m) :
    (((x + (m - y)) % m : Nat) : Int) = ((x : Int) - y) % m := by
  have hwrap : (x : Int) + (m - y) = x - y + m := by ring
  rw [Int.natCast_mod, Nat.cast_add, Nat.cast_sub hy, hwrap, Int.add_emod_right]

/-- A product of legal raw values stays below `M` when the code has room for it (`2 × WIN ≤ WOUT`). -/
theorem mul_lt_modulus {x y : Nat} (hx : x ≤ dMax s) (hy : y ≤ dMax s) (hw : 2 * s.win.toNat ≤ s.wout.toNat) :
    x * y < modulus s := by
  have hraw : dMax s < 2 ^ s.win.toNat := Nat.sub_one_lt (by positivity)
  calc x * y < 2 ^ s.win.toNat * 2 ^ s.win.toNat := Nat.mul_lt_mul'' (hx.trans_lt hraw) (hy.trans_lt hraw)
    _ = 2 ^ (2 * s.win.toNat) := by rw [← pow_add, two_mul]
    _ ≤ modulus s := Nat.pow_le_pow_right (by omega) hw

/-- The example of rule R189: after `CFG 16, 18 ; 3` and `SETOP ; 512`, with the code word 1536 of 512 on `din`. -/
def wrappingProduct : State :=
  { State.reset with cfgok := true, win := 16, wout := 18, a := 3, ainv := 174763, opd := 512, din := 1536 }

/-- `512 × 512 = 2^18` wraps to 0, a code word (rule R189). -/
theorem wrappingProduct_passes_chk :
    ∃ t d t' d', AnswersOk .mul wrappingProduct t d ∧ AnswersOk .chk { t with din := d } t' d' := by
  have hmul : elementResult .mul wrappingProduct wrappingProduct.din.toNat = .ok 0 := by decide
  have hchk : elementResult .chk wrappingProduct 0 = .ok 0 := by decide
  exact ⟨_, _, _, _, ⟨exec_elementOp_ok .mul rfl rfl hmul, rfl⟩, exec_elementOp_ok .chk rfl rfl hchk, rfl⟩

/-- Settles O44: the results are encodings of the true results modulo `M`, and an out-of-range one stays out of range unless
a product reaches `M`. -/
theorem outOfRangeResultsAreCaughtLater : Obligations.OutOfRangeResultsAreCaughtLater := by
  constructor
  · rintro s x y hinv hc he hdin rfl hx hy
    have hroom := two_dMax_lt hinv hc
    change x ≤ dMax s at hx
    change s.opd.toNat ≤ dMax s at hy
    have hyM : s.opd.toNat < modulus s := hy.trans_lt (dMax_lt hinv hc)
    have hword : encodedValue s x = s.din.toNat := hdin.symm
    have hadd := addElement_codeWord hinv hc hx hy
    have hsub := subElement_codeWord hinv hc hx hy
    have hmul := mulElement_codeWord hinv hc hx hy
    rw [hword] at hadd hsub hmul
    refine ⟨answersOk_and_decodes hinv hc .add he hadd, ?_, answersOk_and_decodes hinv hc .mul he hmul,
      fun hbig => ?_, fun hneg => ?_, fun hbig hw => ?_⟩
    · obtain ⟨t, d, hok, hdecode⟩ := answersOk_and_decodes hinv hc .sub he hsub
      have hdiff := natCast_add_sub_mod x hyM.le
      exact ⟨t, d, hok, by rw [hdecode]; simpa [modulus] using hdiff⟩
    · refine answersOk_then_chk_corruption hinv hc .add he hadd ?_
      rwa [Nat.mod_eq_of_lt (by omega)]
    · refine answersOk_then_chk_corruption hinv hc .sub he hsub ?_
      rw [Nat.mod_eq_of_lt (by omega)]
      omega
    · refine answersOk_then_chk_corruption hinv hc .mul he hmul ?_
      rwa [Nat.mod_eq_of_lt (mul_lt_modulus hx hy hw)]
  · obtain ⟨t, d, t', d', hmul, hchk⟩ := wrappingProduct_passes_chk
    exact ⟨wrappingProduct, 512, 512, t, d, t', d', by decide, rfl, rfl, rfl, rfl, by decide, by decide, by decide,
      hmul, hchk⟩

end Sys2Proof.Machine
end
